-- ==== Sys2Proof/Word.lean ====
section
/-! DEFINITION. The word types of the block (spec 00_scope.md R12: every value is unsigned, bit 0 is the least
significant bit). -/

namespace Sys2Proof

/-- One byte: a frame byte, a command, a data byte, an 8-bit operand. -/
abbrev Byte := BitVec 8

/-- One HD44780 nibble, `SIG.DATA` (R22). -/
abbrev Nibble := BitVec 4

/-- A 7-bit I2C address (R8). -/
abbrev BusAddr := BitVec 7

/-- `bit(b)` of R12: a boolean used as a bit. -/
abbrev bit (b : Bool) : BitVec 1 := BitVec.ofBool b

end Sys2Proof
end

