-- ==== Sys2Proof/Config.lean ====
section
/-! DEFINITION. The configuration parameters of a block instance (spec 00_scope.md R6 to R11) and the free values:
what the bus answers (R52, R53) and what a mode byte without a value would read as (R29). -/

namespace Sys2Proof

/-- `ADAPTER` (R7): the adapter chip, fixed for the life of an instance. -/
inductive Adapter where
  | genericPcf8574t
  | adafruitMcp23008
  | dualPcf8574t
  deriving DecidableEq, Repr, Inhabited

/-- `GEOMETRY = (ROWS, COLS, ROW_OFFSET[0..3])` (R9). -/
structure Geometry where
  rows : Byte
  cols : Byte
  off0 : Byte
  off1 : Byte
  off2 : Byte
  off3 : Byte
  deriving DecidableEq, Repr, Inhabited

/-- The configuration registers `ADAPTER`, `BUS_ADDR`, `GEOMETRY` (R20, R34): no operation writes them. -/
structure Configuration where
  adapter : Adapter
  busAddr : BusAddr
  geometry : Geometry
  deriving DecidableEq, Repr, Inhabited

/-- What the bus handle answers to one transaction (R52, R53): success, with the byte a read transaction returns
(a write transaction ignores it), or a failure with the handle's payload.
DESIGN CHOICE (assumption 4, safe): the opaque payload is a natural number that nothing interprets. -/
inductive BusAnswer where
  | ok (data : Byte)
  | err (payload : Nat)
  deriving DecidableEq, Repr, Inhabited

/-- FREE VALUE (R11, R52, R53, decision D30): the bus oracle's answer to the k-th transaction of a run, where
`State.busScript` names no answer of its own. Nothing constrains it (assumption 3, safe). -/
opaque Config.busAnswer : Nat → BusAnswer

/-- FREE VALUE (assumption 17, safe): what reading a mode byte that holds no value would give. R29 says no operation
can read one; the model's invariant says no run does. The argument is `State.txn`. -/
opaque Config.freeModeByte : Nat → Byte

end Sys2Proof
end

