-- ==== Sys2Proof/Syntax.lean ====
section
/-! DEFINITION. The instructions: one constructor per row of spec/opcode_table.json. The first 35 are the port
operations of R93; the others are the bus frames (R71 to R75), the HD44780 commands (R79 to R86), the handshake nibbles
(R87) and the data and status transfers (R88, R89), each run by itself (assumptions 9 to 12). Operands have the widths
R93 gives them; the operands of a row that the spec fixes ("always") are no operands here. -/

namespace Sys2Proof

/-- `MAP` (R93, R198): the eight glyph rows, top to bottom. -/
structure Glyph where
  row0 : Byte
  row1 : Byte
  row2 : Byte
  row3 : Byte
  row4 : Byte
  row5 : Byte
  row6 : Byte
  row7 : Byte
  deriving DecidableEq, Repr, Inhabited

/-- An instruction of spec/opcode_table.json. -/
inductive Instr where
  -- host port (42_controller.md)
  | init
  | clear
  | home
  | setCursor (col row : Byte)
  | showCursor (on : Bool)
  | blinkCursor (on : Bool)
  | showDisplay (on : Bool)
  | scrollLeft
  | scrollRight
  | leftToRight
  | rightToLeft
  | autoscroll (on : Bool)
  | createChar (loc : Byte) (glyph : Glyph)
  | print (text : List Byte)
  | backlight (on : Bool)
  | readDeviceData (n : Nat)
  | readAddressCounter
  | supportsReads
  -- adapter port (40_encoder_adapter.md)
  | defaultBusAddress
  | adapterSupportsReads
  | controllerCount
  | isCompatible (g : Geometry)
  | hardwareInit
  | setRs (v : Bool)
  | setRw (v : Bool)
  | setBacklight (v : Bool)
  | setEnable (v : Bool) (idx : Byte)
  | setData (nib : Nibble)
  | writeStateToBus
  | encode
  -- engine port (41_protocol_engine.md)
  | writeNibble (rs : Bool) (nib : Nibble) (c : Byte)
  | writeByte (rs : Bool) (b : Byte) (c : Byte)
  | readByte (rs : Bool) (c : Byte)
  | busyPoll (c : Byte)
  | readBytes (rs : Bool) (n : Nat) (c : Byte)
  -- bus frames (30_encoding.md R71 to R75)
  | frameGeneric (data : Nibble) (bl en rw rs : Bool)
  | frameAdafruit (bl : Bool) (data : Nibble) (en rs : Bool)
  | powerupAdafruit
  | frameDual (data : Nibble) (bl en0 en1 rs : Bool)
  | readNibbleGeneric
  -- HD44780 commands to controller c (30_encoding.md R79 to R86)
  | clearDisplay (c : Byte)
  | returnHome (c : Byte)
  | entryModeSet (c : Byte) (incr shift : Bool)
  | displayControl (c : Byte) (display cursor blink : Bool)
  | cursorDisplayShift (c : Byte) (right : Bool)
  | functionSet (c : Byte)
  | setCgramAddr (c : Byte) (loc : BitVec 3)
  | setDdramAddr (c : Byte) (addr : BitVec 7)
  -- handshake nibbles (R87) and transfers (R88, R89)
  | handshakeNibble3 (c : Byte)
  | handshakeNibble2 (c : Byte)
  | dataWrite (c : Byte) (b : Byte)
  | statusRead (c : Byte)
  | dataRead (c : Byte)
  deriving DecidableEq, Repr, Inhabited

end Sys2Proof
end

