-- ==== Sys2Proof/WellFormed.lean ====
section
/-! DEFINITION. When an instruction is well-formed, and the names under which the decoder rejects a packet
(spec 30_encoding.md R92, R95). The types of the operands already carry the other widths of R93. -/

namespace Sys2Proof

/-- R95: the only operand whose legal values its type does not fix is `LOC` of `create_char`, which must be below 8. -/
def Instr.wellFormed : Instr → Bool
  | .createChar loc _ => loc.ult 8
  | _ => true

/-- Why the decoder gives a packet no meaning (R95, R242: it is refused). Every one is safe: the run stops. -/
inductive Reject where
  /-- R95: the first number is no operation code of R93. -/
  | unassignedOpc (opc : Nat)
  /-- R92: a request without an operation code. -/
  | emptyRequest
  /-- R92, R93: more or fewer operand fields than the operation (or the transfer) has. -/
  | wrongOperandCount
  /-- R95: an operand that does not fit its field. -/
  | operandDoesNotFit
  /-- R71 to R74, R76: no frame of the adapter has these bytes. -/
  | notAFrame
  /-- R83, R87, R90: an HD44780 command byte or nibble that no operation of the block emits. -/
  | neverEmitted
  deriving DecidableEq, Repr, Inhabited

end Sys2Proof
end

