-- ==== Sys2Proof/Decode.lean ====
section
/-! DEFINITION. The encodings (spec 30_encoding.md): the bit layouts of the bus frames and of the HD44780 command bytes,
the request format, the decoder (total, rejecting by name) and the encoder. The operations of the machine build their
bytes with the same layouts. -/

namespace Sys2Proof

/-! ### Bus frame layouts (R71 to R75) -/

/-- R71: bit 0 RS, bit 1 RW, bit 2 EN[0], bit 3 BL, bits 7:4 DATA. -/
def packGeneric (data : Nibble) (bl en rw rs : Bool) : Byte :=
  data ++ bit bl ++ bit en ++ bit rw ++ bit rs

/-- R72: bit 7 BL, bits 6:3 DATA, bit 2 EN[0], bit 1 RS, bit 0 always 0. -/
def packAdafruit (bl : Bool) (data : Nibble) (en rs : Bool) : Byte :=
  bit bl ++ data ++ bit en ++ bit rs ++ bit false

/-- R73: bit 0 RS, bit 1 EN[1] (ENABLE2), bit 2 EN[0] (ENABLE1), bit 3 BL, bits 7:4 DATA. -/
def packDual (data : Nibble) (bl en0 en1 rs : Bool) : Byte :=
  data ++ bit bl ++ bit en0 ++ bit en1 ++ bit rs

/-- R72: the first byte of an encoder frame of the MCP23008, its register 0x09. -/
def adafruitGpioRegister : Byte := 0x09

/-- R74: the power-up frame of the MCP23008. -/
def powerupFrame : List Byte := [0x00, 0x00]

/-- R75: the nibble a raw read byte carries, bits 7:4. -/
def nibbleOf (r : Byte) : Nibble := r.extractLsb' 4 4

/-! ### HD44780 command bytes (R79 to R87) -/

/-- R79. -/
def clearCommand : Byte := 0x01

/-- R82. -/
def homeCommand : Byte := 0x02

/-- R84: `0x04 | entry`. -/
def entryCommand (entry : Byte) : Byte := 0x04 ||| entry

/-- R81: `0x08 | control`. -/
def controlCommand (control : Byte) : Byte := 0x08 ||| control

/-- R83: bit 3 SC = 1, bit 2 RL: 0x18 to the left, 0x1C to the right. -/
def shiftCommand (right : Bool) : Byte := if right then 0x1C else 0x18

/-- R80: `0x20 | function`. -/
def functionCommand (function : Byte) : Byte := 0x20 ||| function

/-- R85: `0x40 | (location << 3)`. -/
def cgramCommand (loc : Byte) : Byte := 0x40 ||| (loc <<< 3)

/-- R86: `0x80 | addr`. -/
def ddramCommand (addr : Byte) : Byte := 0x80 ||| addr

/-- R27: the control byte's flags, bit 2 D, bit 1 C, bit 0 B, the other bits 0. -/
def controlFlags (display cursor blink : Bool) : Byte :=
  (0 : BitVec 5) ++ bit display ++ bit cursor ++ bit blink

/-- R28: the entry byte's flags, bit 1 ID, bit 0 S, the other bits 0. -/
def entryFlags (incr shift : Bool) : Byte := (0 : BitVec 6) ++ bit incr ++ bit shift

/-- R26: the function byte's flags, bit 4 DL, bit 3 N, bit 2 F, the other bits 0. -/
def functionFlags (dl n f : Bool) : Byte := (0 : BitVec 3) ++ bit dl ++ bit n ++ bit f ++ (0 : BitVec 2)

/-- R177, R26: 4-bit interface, 2 lines, 5x8 font: 0x08, the only function value the block holds. -/
def initFunction : Byte := functionFlags false true false

/-- R177, R27: display on, cursor off, blink off: 0x04. -/
def initControl : Byte := controlFlags true false false

/-- R177, R28: left to right, no shift: 0x02. -/
def initEntry : Byte := entryFlags true false

/-- R87: the nibble of the reset handshake. -/
def handshakeNibble : Nibble := 0x3

/-- R87: the nibble that commits 4-bit mode. -/
def commitNibble : Nibble := 0x2

/-! ### Packets -/

/-- What a packet is (assumptions 5 and 9): a port request (R92), or one of the table's other formats, which run by
themselves. `busFrame a` is the write frame of adapter `a` (its length follows from the adapter alone, R76), `busRead` the
one-byte read, the `lcd` channels the transfers to controller `c` with their RS and RW (R77). -/
inductive Channel where
  | request
  | busFrame (a : Adapter)
  | busRead
  | lcdCommand (c : Byte)
  | lcdNibble (c : Byte)
  | lcdData (c : Byte)
  | lcdRead (rs : Bool) (c : Byte)
  deriving DecidableEq, Repr, Inhabited

/-- A packet: on the request channel the operation code and then the operands in the table's order (R92, R93); on the
other channels the bytes (or the nibble) that the format carries. Each field is a number, so that an operand that does not
fit its field can be presented, and refused (R95).
DESIGN CHOICE (assumption 5, safe): the spec gives `{OPC, operands}` and no byte layout of a request. -/
structure Packet where
  channel : Channel
  fields : List Nat
  deriving DecidableEq, Repr, Inhabited

/-! ### Operand fields (R93, R94): unsigned values used as given; one that does not fit is rejected, never truncated -/

/-- `ON`, `V`, `RS`: 1 bit. -/
def boolField (n : Nat) : Except Reject Bool :=
  if n = 0 then .ok false else if n = 1 then .ok true else .error .operandDoesNotFit

/-- `NIB`: 4 bits. -/
def nibbleField (n : Nat) : Except Reject Nibble :=
  if n < 16 then .ok (BitVec.ofNat 4 n) else .error .operandDoesNotFit

/-- `COL`, `ROW`, `IDX`, `C`, `B`: 8 bits. -/
def byteField (n : Nat) : Except Reject Byte :=
  if n < 256 then .ok (BitVec.ofNat 8 n) else .error .operandDoesNotFit

/-- `TEXT`: a finite sequence of bytes. -/
def textField : List Nat → Except Reject (List Byte)
  | [] => .ok []
  | n :: ns =>
    match byteField n, textField ns with
    | .ok b, .ok bs => .ok (b :: bs)
    | .error r, _ => .error r
    | _, .error r => .error r

/-- An operation without operands. -/
def noOperand (i : Instr) : List Nat → Except Reject Instr
  | [] => .ok i
  | _ => .error .wrongOperandCount

/-- An operation whose one operand is a boolean. -/
def boolOperand (mk : Bool → Instr) : List Nat → Except Reject Instr
  | [v] => (boolField v).map mk
  | _ => .error .wrongOperandCount

/-- An operation whose one operand is a byte. -/
def byteOperand (mk : Byte → Instr) : List Nat → Except Reject Instr
  | [b] => (byteField b).map mk
  | _ => .error .wrongOperandCount

/-- `set_cursor COL, ROW`. -/
def decodeSetCursor : List Nat → Except Reject Instr
  | [col, row] => do return .setCursor (← byteField col) (← byteField row)
  | _ => .error .wrongOperandCount

/-- `create_char LOC, MAP`: a `LOC` of 8 or more does not fit (R95). -/
def decodeCreateChar : List Nat → Except Reject Instr
  | [loc, m0, m1, m2, m3, m4, m5, m6, m7] => do
    let l ← byteField loc
    let g : Glyph := ⟨← byteField m0, ← byteField m1, ← byteField m2, ← byteField m3,
      ← byteField m4, ← byteField m5, ← byteField m6, ← byteField m7⟩
    if l.ult 8 then return .createChar l g else .error .operandDoesNotFit
  | _ => .error .wrongOperandCount

/-- `is_compatible G`, with G as ROWS, COLS and the four offsets. -/
def decodeIsCompatible : List Nat → Except Reject Instr
  | [rows, cols, o0, o1, o2, o3] => do
    return .isCompatible ⟨← byteField rows, ← byteField cols, ← byteField o0, ← byteField o1,
      ← byteField o2, ← byteField o3⟩
  | _ => .error .wrongOperandCount

/-- `set_enable V, IDX`. -/
def decodeSetEnable : List Nat → Except Reject Instr
  | [v, idx] => do return .setEnable (← boolField v) (← byteField idx)
  | _ => .error .wrongOperandCount

/-- `set_data NIB`. -/
def decodeSetData : List Nat → Except Reject Instr
  | [n] => (nibbleField n).map .setData
  | _ => .error .wrongOperandCount

/-- `write_nibble RS, NIB, C`. -/
def decodeWriteNibble : List Nat → Except Reject Instr
  | [rs, n, c] => do return .writeNibble (← boolField rs) (← nibbleField n) (← byteField c)
  | _ => .error .wrongOperandCount

/-- `write_byte RS, B, C`. -/
def decodeWriteByte : List Nat → Except Reject Instr
  | [rs, b, c] => do return .writeByte (← boolField rs) (← byteField b) (← byteField c)
  | _ => .error .wrongOperandCount

/-- `read_byte RS, C`. -/
def decodeReadByte : List Nat → Except Reject Instr
  | [rs, c] => do return .readByte (← boolField rs) (← byteField c)
  | _ => .error .wrongOperandCount

/-- `read_bytes RS, N, C`: `N` is a natural number of any size. -/
def decodeReadBytes : List Nat → Except Reject Instr
  | [rs, n, c] => do return .readBytes (← boolField rs) n (← byteField c)
  | _ => .error .wrongOperandCount

/-- `read_device_data N`. -/
def decodeReadDeviceData : List Nat → Except Reject Instr
  | [n] => .ok (.readDeviceData n)
  | _ => .error .wrongOperandCount

/-- The operation codes of R93. -/
def decodeOpc (opc : Nat) (ops : List Nat) : Except Reject Instr :=
  match opc with
  | 0x01 => noOperand .init ops
  | 0x02 => noOperand .clear ops
  | 0x03 => noOperand .home ops
  | 0x04 => decodeSetCursor ops
  | 0x05 => boolOperand .showCursor ops
  | 0x06 => boolOperand .blinkCursor ops
  | 0x07 => boolOperand .showDisplay ops
  | 0x08 => noOperand .scrollLeft ops
  | 0x09 => noOperand .scrollRight ops
  | 0x0A => noOperand .leftToRight ops
  | 0x0B => noOperand .rightToLeft ops
  | 0x0C => boolOperand .autoscroll ops
  | 0x0D => decodeCreateChar ops
  | 0x0E => (textField ops).map .print
  | 0x0F => boolOperand .backlight ops
  | 0x10 => decodeReadDeviceData ops
  | 0x11 => noOperand .readAddressCounter ops
  | 0x12 => noOperand .supportsReads ops
  | 0x20 => noOperand .defaultBusAddress ops
  | 0x21 => noOperand .adapterSupportsReads ops
  | 0x22 => noOperand .controllerCount ops
  | 0x23 => decodeIsCompatible ops
  | 0x24 => noOperand .hardwareInit ops
  | 0x25 => boolOperand .setRs ops
  | 0x26 => boolOperand .setRw ops
  | 0x27 => boolOperand .setBacklight ops
  | 0x28 => decodeSetEnable ops
  | 0x29 => decodeSetData ops
  | 0x2A => noOperand .writeStateToBus ops
  | 0x2B => noOperand .encode ops
  | 0x30 => decodeWriteNibble ops
  | 0x31 => decodeWriteByte ops
  | 0x32 => decodeReadByte ops
  | 0x33 => byteOperand .busyPoll ops
  | 0x34 => decodeReadBytes ops
  | _ => .error (.unassignedOpc opc)

/-- A request (R92): the operation code and the operands. -/
def decodeRequest : List Nat → Except Reject Instr
  | [] => .error .emptyRequest
  | opc :: ops => decodeOpc opc ops

/-- The write frames of the three adapters (R71 to R74, R76). -/
def decodeFrame (a : Adapter) (bytes : List Byte) : Except Reject Instr :=
  match a, bytes with
  | .genericPcf8574t, [f] =>
    .ok (.frameGeneric (f.extractLsb' 4 4) (f.getLsbD 3) (f.getLsbD 2) (f.getLsbD 1) (f.getLsbD 0))
  | .dualPcf8574t, [f] =>
    .ok (.frameDual (f.extractLsb' 4 4) (f.getLsbD 3) (f.getLsbD 2) (f.getLsbD 1) (f.getLsbD 0))
  | .adafruitMcp23008, [r, f] =>
    if [r, f] = powerupFrame then .ok .powerupAdafruit
    else if r = adafruitGpioRegister ∧ f.getLsbD 0 = false then
      .ok (.frameAdafruit (f.getLsbD 7) (f.extractLsb' 3 4) (f.getLsbD 2) (f.getLsbD 1))
    else .error .notAFrame
  | _, _ => .error .notAFrame

/-- The command bytes of R78 by their mask and match. A bit the HD44780 ignores (`x`) is ignored here too; a byte with a
value the spec says the block never sends (SC = 0; DL, N, F other than 0, 1, 0; CGRAM bits 2:0 other than 0; 0x00) is
rejected by name (R80, R83, R85, R90; assumption 13). -/
def decodeCommand (c b : Byte) : Except Reject Instr :=
  if b &&& 0xFF = 0x01 then .ok (.clearDisplay c)
  else if b &&& 0xFE = 0x02 then .ok (.returnHome c)
  else if b &&& 0xFC = 0x04 then .ok (.entryModeSet c (b.getLsbD 1) (b.getLsbD 0))
  else if b &&& 0xF8 = 0x08 then .ok (.displayControl c (b.getLsbD 2) (b.getLsbD 1) (b.getLsbD 0))
  else if b &&& 0xF8 = 0x18 then .ok (.cursorDisplayShift c (b.getLsbD 2))
  else if b &&& 0xFC = 0x28 then .ok (.functionSet c)
  else if b &&& 0xC7 = 0x40 then .ok (.setCgramAddr c (b.extractLsb' 3 3))
  else if b &&& 0x80 = 0x80 then .ok (.setDdramAddr c (b.extractLsb' 0 7))
  else .error .neverEmitted

/-- The two handshake nibbles (R87). -/
def decodeNibble (c : Byte) (n : Nibble) : Except Reject Instr :=
  if n = handshakeNibble then .ok (.handshakeNibble3 c)
  else if n = commitNibble then .ok (.handshakeNibble2 c)
  else .error .neverEmitted

/-- The one byte a transfer carries. -/
def oneByte (k : Byte → Except Reject Instr) : List Nat → Except Reject Instr
  | [b] => (byteField b).bind k
  | _ => .error .wrongOperandCount

/-- The decoder: the instruction of a packet, or the name of why it has none (R95). -/
def decode (p : Packet) : Except Reject Instr :=
  match p.channel with
  | .request => decodeRequest p.fields
  | .busFrame a => (textField p.fields).bind (decodeFrame a)
  | .busRead => noOperand .readNibbleGeneric p.fields
  | .lcdCommand c => oneByte (decodeCommand c) p.fields
  | .lcdNibble c =>
    match p.fields with
    | [n] => (nibbleField n).bind (decodeNibble c)
    | _ => .error .wrongOperandCount
  | .lcdData c => oneByte (fun b => .ok (.dataWrite c b)) p.fields
  | .lcdRead rs c => noOperand (if rs then .dataRead c else .statusRead c) p.fields

/-! ### The encoder -/

/-- A boolean as an operand field. -/
def fieldOfBool (b : Bool) : Nat := if b then 1 else 0

/-- The eight rows in order (R198). -/
def Glyph.rows (g : Glyph) : List Byte := [g.row0, g.row1, g.row2, g.row3, g.row4, g.row5, g.row6, g.row7]

/-- A request packet. -/
def requestPacket (opc : Nat) (ops : List Nat) : Packet := ⟨.request, opc :: ops⟩

/-- Bytes as fields. -/
def fieldsOfBytes (bs : List Byte) : List Nat := bs.map BitVec.toNat

/-- A command packet to controller c. -/
def commandPacket (c b : Byte) : Packet := ⟨.lcdCommand c, [b.toNat]⟩

/-- The packet of an instruction: the code and operands of R93, the frame layouts of R71 to R74, the command bytes of R79 to
R86 with every `x` bit 0. -/
def encode : Instr → Packet
  | .init => requestPacket 0x01 []
  | .clear => requestPacket 0x02 []
  | .home => requestPacket 0x03 []
  | .setCursor col row => requestPacket 0x04 [col.toNat, row.toNat]
  | .showCursor on => requestPacket 0x05 [fieldOfBool on]
  | .blinkCursor on => requestPacket 0x06 [fieldOfBool on]
  | .showDisplay on => requestPacket 0x07 [fieldOfBool on]
  | .scrollLeft => requestPacket 0x08 []
  | .scrollRight => requestPacket 0x09 []
  | .leftToRight => requestPacket 0x0A []
  | .rightToLeft => requestPacket 0x0B []
  | .autoscroll on => requestPacket 0x0C [fieldOfBool on]
  | .createChar loc g => requestPacket 0x0D (loc.toNat :: fieldsOfBytes g.rows)
  | .print text => requestPacket 0x0E (fieldsOfBytes text)
  | .backlight on => requestPacket 0x0F [fieldOfBool on]
  | .readDeviceData n => requestPacket 0x10 [n]
  | .readAddressCounter => requestPacket 0x11 []
  | .supportsReads => requestPacket 0x12 []
  | .defaultBusAddress => requestPacket 0x20 []
  | .adapterSupportsReads => requestPacket 0x21 []
  | .controllerCount => requestPacket 0x22 []
  | .isCompatible g =>
    requestPacket 0x23 [g.rows.toNat, g.cols.toNat, g.off0.toNat, g.off1.toNat, g.off2.toNat, g.off3.toNat]
  | .hardwareInit => requestPacket 0x24 []
  | .setRs v => requestPacket 0x25 [fieldOfBool v]
  | .setRw v => requestPacket 0x26 [fieldOfBool v]
  | .setBacklight v => requestPacket 0x27 [fieldOfBool v]
  | .setEnable v idx => requestPacket 0x28 [fieldOfBool v, idx.toNat]
  | .setData nib => requestPacket 0x29 [nib.toNat]
  | .writeStateToBus => requestPacket 0x2A []
  | .encode => requestPacket 0x2B []
  | .writeNibble rs nib c => requestPacket 0x30 [fieldOfBool rs, nib.toNat, c.toNat]
  | .writeByte rs b c => requestPacket 0x31 [fieldOfBool rs, b.toNat, c.toNat]
  | .readByte rs c => requestPacket 0x32 [fieldOfBool rs, c.toNat]
  | .busyPoll c => requestPacket 0x33 [c.toNat]
  | .readBytes rs n c => requestPacket 0x34 [fieldOfBool rs, n, c.toNat]
  | .frameGeneric data bl en rw rs =>
    ⟨.busFrame .genericPcf8574t, fieldsOfBytes [packGeneric data bl en rw rs]⟩
  | .frameAdafruit bl data en rs =>
    ⟨.busFrame .adafruitMcp23008, fieldsOfBytes [adafruitGpioRegister, packAdafruit bl data en rs]⟩
  | .powerupAdafruit => ⟨.busFrame .adafruitMcp23008, fieldsOfBytes powerupFrame⟩
  | .frameDual data bl en0 en1 rs =>
    ⟨.busFrame .dualPcf8574t, fieldsOfBytes [packDual data bl en0 en1 rs]⟩
  | .readNibbleGeneric => ⟨.busRead, []⟩
  | .clearDisplay c => commandPacket c clearCommand
  | .returnHome c => commandPacket c homeCommand
  | .entryModeSet c incr shift => commandPacket c (entryCommand (entryFlags incr shift))
  | .displayControl c display cursor blink => commandPacket c (controlCommand (controlFlags display cursor blink))
  | .cursorDisplayShift c right => commandPacket c (shiftCommand right)
  | .functionSet c => commandPacket c (functionCommand initFunction)
  | .setCgramAddr c loc => commandPacket c (cgramCommand (loc.setWidth 8))
  | .setDdramAddr c addr => commandPacket c (ddramCommand (addr.setWidth 8))
  | .handshakeNibble3 c => ⟨.lcdNibble c, [handshakeNibble.toNat]⟩
  | .handshakeNibble2 c => ⟨.lcdNibble c, [commitNibble.toNat]⟩
  | .dataWrite c b => ⟨.lcdData c, [b.toNat]⟩
  | .statusRead c => ⟨.lcdRead false c, []⟩
  | .dataRead c => ⟨.lcdRead true c, []⟩

/-! ### Pseudo-instructions (R97): abbreviations of requests, no operation of their own -/

/-- R97: `command C, B` is `write_byte 0, B, C`. -/
def pseudoCommand (c b : Byte) : Instr := .writeByte false b c

/-- R97: `data C, B` is `write_byte 1, B, C`. -/
def pseudoData (c b : Byte) : Instr := .writeByte true b c

/-- R97: `cursor_on` and `cursor_off`. -/
def pseudoCursor (on : Bool) : Instr := .showCursor on

/-- R97: `display_on` and `display_off`. -/
def pseudoDisplay (on : Bool) : Instr := .showDisplay on

/-- R97: `backlight_on` and `backlight_off`. -/
def pseudoBacklight (on : Bool) : Instr := .backlight on

/-! ### Words numbered as spec/opcode_table.json numbers them -/

/-- How many operand fields the operation with this code has (R93; `TEXT` may be empty, R94), or none for a code of no
operation. -/
def operandCount (opc : Nat) : Option Nat :=
  match opc with
  | 0x01 | 0x02 | 0x03 | 0x08 | 0x09 | 0x0A | 0x0B | 0x0E | 0x11 | 0x12 => some 0
  | 0x20 | 0x21 | 0x22 | 0x24 | 0x2A | 0x2B => some 0
  | 0x05 | 0x06 | 0x07 | 0x0C | 0x0F | 0x10 | 0x25 | 0x26 | 0x27 | 0x29 | 0x33 => some 1
  | 0x04 | 0x28 | 0x32 => some 2
  | 0x30 | 0x31 | 0x34 => some 3
  | 0x23 => some 6
  | 0x0D => some 9
  | _ => none

/-- The packet a word of the opcode table stands for. The table has several formats whose words overlap and a word does not
say its format; 16 bits are a two-byte frame (first byte in bits 15:8, as R72 and the table write it), at most 4 bits a
handshake nibble, and 8 bits the request with that operation code and zero operands, or, where the code is unassigned, the
HD44780 command byte to controller 0.
DESIGN CHOICE (assumption 15, safe): only this numbering of table words chooses so, no packet of a run. -/
def tablePacket (nbits w : Nat) : Packet :=
  if nbits = 16 then ⟨.busFrame .adafruitMcp23008, [w / 256, w % 256]⟩
  else if nbits ≤ 4 then ⟨.lcdNibble 0, [w]⟩
  else
    match operandCount w with
    | some k => requestPacket w (List.replicate k 0)
    | none => ⟨.lcdCommand 0, [w]⟩

/-- The instruction the decoder reads from a word of the opcode table. -/
def decodeTableWord (nbits w : Nat) : Option Instr :=
  match decode (tablePacket nbits w) with
  | .ok i => some i
  | .error _ => none

end Sys2Proof
end

