-- ==== Sys2Proof/Machine/Flags.lean ====
section
/-! DEFINITION. The mode flags (spec 10_state.md R26 to R28, 42_controller.md R190 to R197). The block has no condition
flags (R39); the flag computations of its rules are the updates of a mode byte. -/

namespace Sys2Proof.Machine

/-- R190: `(control & ~0x04) | (bit(ON) << 2)`. -/
def withDisplay (on : Bool) (control : Byte) : Byte :=
  (control &&& ~~~0x04#8) ||| ((bit on).setWidth 8 <<< 2)

/-- R191: `(control & ~0x02) | (bit(ON) << 1)`. -/
def withCursor (on : Bool) (control : Byte) : Byte :=
  (control &&& ~~~0x02#8) ||| ((bit on).setWidth 8 <<< 1)

/-- R192: `(control & ~0x01) | bit(ON)`. -/
def withBlink (on : Bool) (control : Byte) : Byte :=
  (control &&& ~~~0x01#8) ||| (bit on).setWidth 8

/-- R191, R192: `control & ~0x03`, cursor and blink off. -/
def withoutCursor (control : Byte) : Byte := control &&& ~~~0x03#8

/-- R195: `entry | 0x02`. -/
def withLeftToRight (entry : Byte) : Byte := entry ||| 0x02

/-- R196: `entry & ~0x02`. -/
def withRightToLeft (entry : Byte) : Byte := entry &&& ~~~0x02#8

/-- R197: `(entry & ~0x01) | bit(ON)`. -/
def withAutoscroll (on : Bool) (entry : Byte) : Byte :=
  (entry &&& ~~~0x01#8) ||| (bit on).setWidth 8

/-- R35, R150: the busy flag is bit 3 of the status byte's high nibble. -/
def busyFlag (hi : Nibble) : Bool := hi.getLsbD 3

/-- R88, R201: a status byte without its busy bit, `status & 0x7F`. -/
def addressCounterOf (status : Byte) : Byte := status &&& 0x7F

end Sys2Proof.Machine
end

