-- ==== Sys2Proof/Machine/Operands.lean ====
section
/-! DEFINITION. The values fixed by the adapter (spec 00_scope.md R7, R10), the operand forms that become nibbles, bytes and
addresses (30_encoding.md R94), row routing (42_controller.md R187) and the checks of a geometry (10_state.md R32,
40_encoder_adapter.md R105). -/

namespace Sys2Proof.Machine

/-- `CONTROLLER_COUNT(ADAPTER)` (R7, R104). -/
def controllerCountOf : Adapter → Nat
  | .genericPcf8574t => 1
  | .adafruitMcp23008 => 1
  | .dualPcf8574t => 2

/-- The controller indices in ascending order (R185). -/
def controllersOf : Adapter → List Byte
  | .genericPcf8574t => [0]
  | .adafruitMcp23008 => [0]
  | .dualPcf8574t => [0, 1]

/-- `SUPPORTS_READS(ADAPTER)` (R7, decision D5). -/
def supportsReadsOf : Adapter → Bool
  | .genericPcf8574t => true
  | .adafruitMcp23008 => false
  | .dualPcf8574t => false

/-- `HAS_RW` (R7, R23): whether the adapter has an RW line. -/
def hasRwOf : Adapter → Bool
  | .genericPcf8574t => true
  | .adafruitMcp23008 => false
  | .dualPcf8574t => false

/-- `DEFAULT_BUS_ADDR(ADAPTER)` (R7, decision D4). -/
def defaultBusAddrOf : Adapter → BusAddr
  | .genericPcf8574t => 0x27
  | .adafruitMcp23008 => 0x20
  | .dualPcf8574t => 0x27

/-- The delays of R10, in microseconds. -/
def tReset1 : Nat := 5000
def tReset2 : Nat := 5000
def tReset3 : Nat := 150
def tClearHome : Nat := 2000
def tCmd : Nat := 39
def tChar : Nat := 43

/-- R57: `B[7:4]`. -/
def highNibble (b : Byte) : Nibble := b.extractLsb' 4 4

/-- R57: `B[3:0]`. -/
def lowNibble (b : Byte) : Nibble := b.extractLsb' 0 4

/-- R58, R148: `{hi, lo}`. -/
def joinNibbles (hi lo : Nibble) : Byte := hi ++ lo

/-- `ROW_OFFSET[lr]` (R9). An index above 3 arises in no configured instance (R32). -/
def rowOffset (g : Geometry) (lr : Byte) : Byte :=
  if lr = 0 then g.off0 else if lr = 1 then g.off1 else if lr = 2 then g.off2 else g.off3

/-- `ROW_MAP(row)` (R187): the controller and its local row. -/
def rowMap (a : Adapter) (row : Byte) : BitVec 1 × Byte :=
  if controllerCountOf a = 1 then (0, row)
  else if row.ult 2 then (0, row)
  else (1, row - 2)

/-- R188: the DDRAM address of cell (col, row). The 8-bit sum does not wrap in a configured instance (R32, R86;
assumption 22). -/
def cellAddress (a : Adapter) (g : Geometry) (col row : Byte) : Byte :=
  col + rowOffset g (rowMap a row).2

/-- A controller index as an engine operand C. -/
def controllerByte (c : BitVec 1) : Byte := c.setWidth 8

/-- R105: the dual adapter takes 40x4 and nothing else; the others take anything else. -/
def isCompatibleWith (a : Adapter) (g : Geometry) : Bool :=
  let is40x4 := g.rows == 4 && g.cols == 40
  match a with
  | .dualPcf8574t => is40x4
  | .genericPcf8574t => !is40x4
  | .adafruitMcp23008 => !is40x4

/-- R32: the last cell of a row has a 7-bit address, computed without overflow. -/
def rowAddressable (a : Adapter) (g : Geometry) (row : Byte) : Bool :=
  (g.cols.toNat - 1) + (rowOffset g (rowMap a row).2).toNat ≤ 0x7F

/-- R32: the geometries an instance can have. -/
def geometryWellFormed (a : Adapter) (g : Geometry) : Bool :=
  decide (1 ≤ g.rows.toNat) && decide (g.rows.toNat ≤ 4) && decide (1 ≤ g.cols.toNat) &&
    (List.range g.rows.toNat).all fun r => rowAddressable a g (BitVec.ofNat 8 r)

end Sys2Proof.Machine
end

