-- ==== Sys2Proof/Machine/State.lean ====
section
/-! DEFINITION. The state of the block (spec 10_state.md R20 to R34), what the host and the bus exchange with it (R14 to
R16, R52, R92), the reasons a step stops (R240, R242), and the state after reset (R260). Plain data throughout. -/

namespace Sys2Proof.Machine

/-- The Controller State Machine's state (R33). -/
inductive Fsm where
  | uninit
  | ready
  deriving DecidableEq, Repr, Inhabited

/-- `SIG`, the latched logical pin state (R22). -/
structure SignalState where
  rs : Bool
  rw : Bool
  en0 : Bool
  en1 : Bool
  bl : Bool
  data : Nibble
  deriving DecidableEq, Repr, Inhabited

/-- `MODE[c]`, the shadow of controller c's mode (R25 to R28). A byte holds no value until it is written: R29, "A model
represents an unwritten mode byte as absent, never as zero." -/
structure ModeBytes where
  function : Option Byte
  control : Option Byte
  entry : Option Byte
  deriving DecidableEq, Repr, Inhabited

/-- A recorded event (R14, R16). -/
inductive Event where
  | busWrite (addr : BusAddr) (bytes : List Byte)
  | busRead (addr : BusAddr)
  | delay (microseconds : Nat)
  deriving DecidableEq, Repr, Inhabited

/-- The error results of R231. Each is safe: it is the result the spec gives the operation, and the machine goes on. -/
inductive OpError where
  | busError (payload : Nat)
  | rowOutOfRange (row : Byte)
  | columnOutOfRange (col : Byte)
  | unsupportedDisplayType
  | readNotSupported
  | badControllerId (idx : Byte)
  deriving DecidableEq, Repr, Inhabited

/-- The result values (R36): `ok`, or the value of a query or read. -/
inductive Value where
  | ok
  | bool (b : Bool)
  | address (a : BusAddr)
  | count (n : Nat)
  | nibble (n : Nibble)
  | byte (b : Byte)
  | bytes (bs : List Byte)
  deriving DecidableEq, Repr, Inhabited

/-- How an operation ended for the host (R16 (b), R36). -/
inductive OpResult where
  | value (v : Value)
  | error (e : OpError)
  deriving DecidableEq, Repr, Inhabited

/-- Which operation a poll loop belongs to, hence what it returns when it ends (R150, R152, R200, R201). -/
inductive ReadKind where
  | busyPoll
  | readBytes
  | readDeviceData
  | readAddressCounter
  deriving DecidableEq, Repr, Inhabited

/-- The position inside a read operation in progress (R21, R150 to R152): the operation, its RS and C, how many bytes are
still to be read (0 for a bare `busy_poll`) and the bytes read so far. -/
structure ReadJob where
  kind : ReadKind
  rs : Bool
  c : Byte
  remaining : Nat
  out : List Byte
  deriving DecidableEq, Repr, Inhabited

/-- Why the machine takes no further step. -/
inductive Fault where
  /-- R240: an engine read operation ran on an adapter without reads, and the block is in the faulted state. Raised by
  `step` in that state. Safe: the spec says the block takes no further step. -/
  | unsupportedRead
  deriving DecidableEq, Repr, Inhabited

/-- Why an instruction or a configuration has no meaning (R242). -/
inductive Refusal where
  /-- An instruction this model gives no meaning yet (exec's arms only). Safe: the run stops. -/
  | notModelled (mnemonic : String)
  /-- R95: a packet the decoder rejects. Raised by `step`. Safe: the run stops. -/
  | badRequest (r : Reject)
  /-- R95: `create_char` with `LOC` of 8 or more, when it does not come from the decoder. Raised by `execCreateChar`.
  Safe: the run stops. -/
  | operandDoesNotFit
  /-- R171: a host operation other than `init` and `supports_reads` in state `UNINIT`. Safe: the run stops. -/
  | hostOperationBeforeInit
  /-- R7, R74, R76: a bus frame of another adapter than the configured one (assumption 14). Safe: the run stops. -/
  | frameOfOtherAdapter
  /-- R8: a `BUS_ADDR` above 0x7F: no instance exists. Raised by `configure`. Safe: there is no run. -/
  | badBusAddress
  /-- R32: an ill-formed geometry: no instance exists. Raised by `configure`. Safe: there is no run. -/
  | badGeometry
  deriving DecidableEq, Repr, Inhabited

/-- The state of the machine. -/
structure State where
  /-- `ADAPTER`, `BUS_ADDR`, `GEOMETRY` (R20, R34). -/
  cfg : Configuration
  /-- `SIG` (R22). -/
  sig : SignalState
  /-- `MODE[0]` (R25). -/
  mode0 : ModeBytes
  /-- `MODE[1]` (R25, R30). -/
  mode1 : ModeBytes
  /-- `ACTIVE` (R31), 1 bit. -/
  active : BitVec 1
  /-- `FSM` (R33). -/
  fsm : Fsm
  /-- The faulted state (R14, R16 (c), R240): never cleared. -/
  fault : Option Fault
  /-- The read operation in progress, if any (R21, R151). -/
  job : Option ReadJob
  /-- The recorded events, oldest first (R16 (a)). -/
  trace : List Event
  /-- The results returned to the host, oldest first (R16 (b)). -/
  results : List OpResult
  /-- MODEL'S OWN: the packets the host still presents, the next one first (R15, R92). -/
  requests : List Packet
  /-- MODEL'S OWN: the bus's answers to the coming transactions, as far as they are named; after them
  `Config.busAnswer` answers (R52, R53). No statement rests on the value it has at reset. -/
  busScript : List BusAnswer
  /-- MODEL'S OWN: how many transactions have been issued. -/
  txn : Nat
  deriving DecidableEq, Repr

/-- R24: all zero. -/
def SignalState.reset : SignalState := ⟨false, false, false, false, false, 0⟩

/-- R29: no value. -/
def ModeBytes.reset : ModeBytes := ⟨none, none, none⟩

/-- R260, R261: the state of a new instance with this configuration: no event, no request yet. -/
def State.resetWith (cfg : Configuration) : State where
  cfg := cfg
  sig := SignalState.reset
  mode0 := ModeBytes.reset
  mode1 := ModeBytes.reset
  active := 0
  fsm := .uninit
  fault := none
  job := none
  trace := []
  results := []
  requests := []
  busScript := []
  txn := 0

/-- DESIGN CHOICE (assumption 1, unsafe): the one instance `State.reset` names is the spec's example G16
(95_test_vectors.md): `GENERIC_PCF8574T`, 0x27, 16x2. -/
def defaultConfiguration : Configuration where
  adapter := .genericPcf8574t
  busAddr := 0x27
  geometry := ⟨2, 16, 0x00, 0x40, 0x10, 0x50⟩

/-- The machine right after reset (R260). -/
def State.reset : State := State.resetWith defaultConfiguration

end Sys2Proof.Machine
end

