-- ==== Sys2Proof/Machine/Ops.lean ====
section
/-! DEFINITION. The shared operations: sequencing with errors (spec 00_scope.md R14, 60_exceptions.md R236), the bus and delay
primitives (20_memory.md R51 to R56), the adapter's signals (40_encoder_adapter.md), the engine's sequences
(41_protocol_engine.md) and the controller's helpers. Each instruction's meaning is a short list of these. -/

namespace Sys2Proof.Machine

abbrev Outcome := Host.Outcome State Fault Refusal

/-- An operation of the block: it ends with a value or an error result, and either way in a state. An error keeps every
register and every recorded event as they are at that moment (R236). -/
abbrev Op (α : Type) := State → Except OpError α × State

/-! ### Sequencing and errors -/

/-- An operation that does nothing and returns a value. -/
def opReturn {α : Type} (a : α) : Op α := fun s => (.ok a, s)

/-- `raise E` (R14, R236): the operation ends with the error; nothing is rolled back. This is the ONE error entry. -/
def raise {α : Type} (e : OpError) : Op α := fun s => (.error e, s)

/-- `a = try X; …` (R14): go on with X's value, or end with X's error. -/
def opBind {α β : Type} (m : Op α) (k : α → Op β) : Op β := fun s =>
  match m s with
  | (.ok a, s') => k a s'
  | (.error e, s') => (.error e, s')

/-- Several steps one after another, ending at the first error (R14 `try`, R185, R236). -/
def seqOps : List (Op Unit) → Op Unit
  | [] => opReturn ()
  | op :: rest => opBind op fun _ => seqOps rest

/-- A step that changes registers only: it cannot fail and records no event. -/
def update (f : State → State) : Op Unit := fun s => (.ok (), f s)

/-! ### Bus and delay primitives -/

/-- What the bus answers to the next transaction (R52, R53): the named answer, or the free one. -/
def nextAnswer (s : State) : BusAnswer :=
  match s.busScript with
  | [] => Config.busAnswer s.txn
  | a :: _ => a

/-- An event is recorded when it is issued (R14, R51, R54). -/
def record (e : Event) (s : State) : State := { s with trace := s.trace ++ [e] }

/-- A transaction is issued: its event is recorded whether or not it succeeds, and its answer is used up. -/
def issue (e : Event) (s : State) : State :=
  { record e s with busScript := s.busScript.tail, txn := s.txn + 1 }

/-- `MemWrite(BUS_ADDR, n, bytes)` (R14, R51, R52). -/
def memWrite (bytes : List Byte) : Op Unit := fun s =>
  (match nextAnswer s with
    | .ok _ => .ok ()
    | .err e => .error (.busError e),
   issue (.busWrite s.cfg.busAddr bytes) s)

/-- `MemRead(BUS_ADDR, 1)` (R14, R53, R54). -/
def memRead : Op Byte := fun s =>
  (match nextAnswer s with
    | .ok b => .ok b
    | .err e => .error (.busError e),
   issue (.busRead s.cfg.busAddr) s)

/-- `Delay(t)` (R14, R56): recorded, never fails. -/
def delay (t : Nat) : Op Unit := update (record (.delay t))

/-! ### The bitfield encoder and the adapter's signals -/

/-- `ENCODE(ADAPTER, SIG)` (R70 to R73). -/
def encodeFrame (a : Adapter) (g : SignalState) : List Byte :=
  match a with
  | .genericPcf8574t => [packGeneric g.data g.bl g.en0 g.rw g.rs]
  | .adafruitMcp23008 => [adafruitGpioRegister, packAdafruit g.bl g.data g.en0 g.rs]
  | .dualPcf8574t => [packDual g.data g.bl g.en0 g.en1 g.rs]

/-- A register-only change of `SIG`. -/
def updateSig (f : SignalState → SignalState) : Op Unit := update fun s => { s with sig := f s.sig }

/-- R112. -/
def setRs (v : Bool) : Op Unit := updateSig fun g => { g with rs := v }

/-- R113: a no-op on an adapter without an RW line. -/
def setRw (v : Bool) : Op Unit :=
  update fun s => if hasRwOf s.cfg.adapter then { s with sig := { s.sig with rw := v } } else s

/-- R114. -/
def setBacklight (v : Bool) : Op Unit := updateSig fun g => { g with bl := v }

/-- R116. -/
def setData (nib : Nibble) : Op Unit := updateSig fun g => { g with data := nib }

/-- `SIG.EN[c] <- v`. -/
def withEnable (v : Bool) (c : Byte) (g : SignalState) : SignalState :=
  if c = 0 then { g with en0 := v } else if c = 1 then { g with en1 := v } else g

/-- R115: the check comes before the write. -/
def setEnable (v : Bool) (c : Byte) : Op Unit := fun s =>
  if c.toNat < controllerCountOf s.cfg.adapter then updateSig (withEnable v c) s
  else raise (.badControllerId c) s

/-- R110: one transaction of the frame of `SIG`. -/
def writeStateToBus : Op Unit := fun s => memWrite (encodeFrame s.cfg.adapter s.sig) s

/-- R111: the MCP23008's power-up write; nothing on the other adapters. -/
def hardwareInit : Op Unit := fun s =>
  match s.cfg.adapter with
  | .adafruitMcp23008 => memWrite powerupFrame s
  | .genericPcf8574t => opReturn () s
  | .dualPcf8574t => opReturn () s

/-! ### The nibble and byte protocol engine -/

/-- R141. -/
def writeNibble (rs : Bool) (nib : Nibble) (c : Byte) : Op Unit :=
  seqOps [setRs rs, setRw false, setData nib, setEnable true c, writeStateToBus, setEnable false c, writeStateToBus]

/-- R142: high nibble first. -/
def writeByte (rs : Bool) (b : Byte) (c : Byte) : Op Unit :=
  seqOps [writeNibble rs (highNibble b) c, writeNibble rs (lowNibble b) c]

/-- `CMD(c, b, t)` (R144): one command byte and its settle delay. -/
def command (c b : Byte) (t : Nat) : Op Unit := seqOps [writeByte false b c, delay t]

/-- `DAT(c, b)` (R144): one data byte and its settle delay. -/
def dataByte (c b : Byte) : Op Unit := seqOps [writeByte true b c, delay tChar]

/-- `READ_STROBE(C)` (R146): the nibble read while EN[C] is high. -/
def readStrobe (c : Byte) : Op Nibble :=
  opBind (seqOps [setEnable true c, writeStateToBus]) fun _ =>
  opBind memRead fun r =>
  opBind (seqOps [setEnable false c, writeStateToBus]) fun _ =>
  opReturn (nibbleOf r)

/-- `STROBE_ONLY(C)` (R146). -/
def strobeOnly (c : Byte) : Op Unit :=
  seqOps [setEnable true c, writeStateToBus, setEnable false c, writeStateToBus]

/-- The setup write of a read (R147, R150: W1). -/
def readSetup (rs : Bool) (c : Byte) : Op Unit :=
  seqOps [setRs rs, setRw true, setData 0xF, setEnable false c, writeStateToBus]

/-- The restore write of a read (R147, R150: W6). -/
def readRestore : Op Unit := seqOps [setRw false, writeStateToBus]

/-- `read_byte` after its capability check (R147). -/
def readByte (rs : Bool) (c : Byte) : Op Byte :=
  opBind (readSetup rs c) fun _ =>
  opBind (readStrobe c) fun hi =>
  opBind (readStrobe c) fun lo =>
  opBind readRestore fun _ =>
  opReturn (joinNibbles hi lo)

/-- The sequence of one iteration of `busy_poll` (R150): the status byte's high nibble is read, the low one strobed only, so
that the nibble phase ends aligned. -/
def readNibble (c : Byte) : Op Nibble :=
  opBind (readSetup false c) fun _ =>
  opBind (readStrobe c) fun hi =>
  opBind (seqOps [strobeOnly c, readRestore]) fun _ =>
  opReturn hi

/-- One iteration of `busy_poll` after its capability check (R150): whether the busy flag was set. -/
def pollOnce (c : Byte) : Op Bool :=
  opBind (readNibble c) fun hi => opReturn (busyFlag hi)

/-! ### Mode bytes -/

/-- `MODE[c]`. -/
def modeAt (c : Byte) (s : State) : ModeBytes := if c = 0 then s.mode0 else s.mode1

/-- Writes `MODE[c]`. R30: an entry at or beyond `CONTROLLER_COUNT` is never written. -/
def setMode (c : Byte) (f : ModeBytes → ModeBytes) (s : State) : State :=
  if c.toNat < controllerCountOf s.cfg.adapter then
    if c = 0 then { s with mode0 := f s.mode0 } else { s with mode1 := f s.mode1 }
  else s

/-- A mode byte as an operand. One without a value is not read in any run (R29); what it would read as is free
(assumption 17). -/
def modeByte (b : Option Byte) (s : State) : Byte := b.getD (Config.freeModeByte s.txn)

/-- `MODE[c].function <- v`. -/
def writeFunction (c v : Byte) : Op Unit := update (setMode c fun m => { m with function := some v })

/-- `MODE[c].control <- v`. -/
def writeControl (c v : Byte) : Op Unit := update (setMode c fun m => { m with control := some v })

/-- `MODE[c].entry <- v`. -/
def writeEntry (c v : Byte) : Op Unit := update (setMode c fun m => { m with entry := some v })

/-- `MODE[c].function <- v; CMD(c, 0x20 | MODE[c].function, T_CMD)` (R80, R189). -/
def sendFunction (c v : Byte) : Op Unit := seqOps [writeFunction c v, command c (functionCommand v) tCmd]

/-- `MODE[c].control <- v; CMD(c, 0x08 | MODE[c].control, T_CMD)` (R81, R189). -/
def sendControl (c v : Byte) : Op Unit := seqOps [writeControl c v, command c (controlCommand v) tCmd]

/-- `MODE[c].entry <- v; CMD(c, 0x04 | MODE[c].entry, T_CMD)` (R84, R189). -/
def sendEntry (c v : Byte) : Op Unit := seqOps [writeEntry c v, command c (entryCommand v) tCmd]

/-- R29, R189: the write of a mode byte by a command that runs by itself. It shadows the command in state `READY`; in
`UNINIT` nothing but `init` gives a mode byte a value, and the write is left out. -/
def whileReady (op : Op Unit) : Op Unit := fun s =>
  match s.fsm with
  | .ready => op s
  | .uninit => opReturn () s

/-- R189: re-derive the control byte of c from its old value, then send it. -/
def changeControl (f : Byte → Byte) (c : Byte) : Op Unit := fun s =>
  sendControl c (f (modeByte (modeAt c s).control s)) s

/-- R189: re-derive the entry byte of c from its old value, then send it. -/
def changeEntry (f : Byte → Byte) (c : Byte) : Op Unit := fun s =>
  sendEntry c (f (modeByte (modeAt c s).entry s)) s

/-- R191, R192: f on the active controller, cursor and blink off on the others. -/
def changeCursor (f : Byte → Byte) (c : Byte) : Op Unit := fun s =>
  if c = controllerByte s.active then changeControl f c s else changeControl withoutCursor c s

/-! ### Controller sequences -/

/-- A fan-out (R185): the body for every controller, in ascending order, ending at the first error. -/
def fanOut (body : Byte → Op Unit) : Op Unit := fun s =>
  seqOps ((controllersOf s.cfg.adapter).map body) s

/-- `ACTIVE <- c`. -/
def setActive (c : BitVec 1) : Op Unit := update fun s => { s with active := c }

/-- `FSM <- f`. -/
def setFsm (f : Fsm) : Op Unit := update fun s => { s with fsm := f }

/-- R173: the compatibility check of `init`. -/
def requireCompatible : Op Unit := fun s =>
  if isCompatibleWith s.cfg.adapter s.cfg.geometry then opReturn () s else raise .unsupportedDisplayType s

/-- R172 steps 3a to 3f for one controller. -/
def initController (c : Byte) : Op Unit :=
  seqOps [
    writeNibble false handshakeNibble c, delay tReset1,
    writeNibble false handshakeNibble c, delay tReset2,
    writeNibble false handshakeNibble c, delay tReset3,
    writeNibble false commitNibble c, delay tCmd,
    sendFunction c initFunction,
    sendControl c initControl,
    sendEntry c initEntry,
    command c clearCommand tClearHome,
    command c homeCommand tClearHome]

/-- R172. -/
def initSequence : Op Unit :=
  seqOps [setFsm .uninit, requireCompatible, hardwareInit, fanOut initController,
    setBacklight true, writeStateToBus, setActive 0, setFsm .ready]

/-- R188 after its checks. -/
def placeCursor (col row : Byte) : Op Unit := fun s =>
  let target := (rowMap s.cfg.adapter row).1
  let addr := cellAddress s.cfg.adapter s.cfg.geometry col row
  seqOps [setActive target, command (controllerByte target) (ddramCommand addr) tCmd] s

/-- R186: the row is checked first; both checks precede every event and register write. -/
def setCursor (col row : Byte) : Op Unit := fun s =>
  if s.cfg.geometry.rows.ule row then raise (.rowOutOfRange row) s
  else if s.cfg.geometry.cols.ule col then raise (.columnOutOfRange col) s
  else placeCursor col row s

/-- R198 for one controller. -/
def defineGlyph (loc : Byte) (g : Glyph) (c : Byte) : Op Unit :=
  seqOps (command c (cgramCommand loc) tCmd :: g.rows.map (dataByte c))

/-- R199. -/
def printText (text : List Byte) : Op Unit := fun s =>
  seqOps (text.map (dataByte (controllerByte s.active))) s

/-! ### Ending an operation -/

/-- The result of an operation for the host (R36). -/
def resultOf {α : Type} (toValue : α → Value) : Except OpError α → OpResult
  | .ok a => .value (toValue a)
  | .error e => .error e

/-- R231: the numeric code of an error. -/
def errorCode : OpError → Nat
  | .busError _ => 1
  | .rowOutOfRange _ => 2
  | .columnOutOfRange _ => 3
  | .unsupportedDisplayType => 4
  | .readNotSupported => 5
  | .badControllerId _ => 6

/-- R231: the numeric code of a result; every result that is no error is `ok`, code 0. -/
def resultCode : OpResult → Nat
  | .value _ => 0
  | .error e => errorCode e

/-- The result goes to the host; the block keeps no error state (R36, R238). -/
def giveResult (r : OpResult) (s : State) : State := { s with results := s.results ++ [r] }

/-- Runs an operation to its end. -/
def runOp {α : Type} (toValue : α → Value) (op : Op α) (s : State) : State :=
  giveResult (resultOf toValue (op s).1) (op s).2

/-- An operation that runs to its end in one step, with a value or with an error result. -/
def complete {α : Type} (toValue : α → Value) (op : Op α) (s : State) : Outcome :=
  .next (runOp toValue op s)

/-- The value `ok` of an operation that returns nothing. -/
def okValue : Unit → Value := fun _ => .ok

/-- A query (R106): a value computed from the state, which is left as it is. -/
def answer (v : State → Value) (s : State) : Outcome := complete id (fun s => opReturn (v s) s) s

/-- `fault F` (R14, R240): the block enters the faulted state; the operation has no result. -/
def enterFault (f : Fault) (s : State) : Outcome := .next { s with fault := some f }

/-- R171: what a host operation does in state `READY`; in `UNINIT` it is refused. -/
def whenReady (s : State) (k : Outcome) : Outcome :=
  match s.fsm with
  | .ready => k
  | .uninit => .refused .hostOperationBeforeInit

/-- R145: what an engine read operation does on an adapter with reads; on the others the block faults. -/
def whenReadable (s : State) (k : Outcome) : Outcome :=
  if supportsReadsOf s.cfg.adapter then k else enterFault .unsupportedRead s

/-- R7, R74, R76: a frame of one adapter has a meaning on that adapter only (assumption 14). -/
def whenAdapter (a : Adapter) (s : State) (k : Outcome) : Outcome :=
  if s.cfg.adapter = a then k else .refused .frameOfOtherAdapter

/-! ### Read operations in progress (R150 to R152) -/

/-- What a multi-byte read returns (R152, R200, R201). -/
def jobValue (k : ReadKind) (out : List Byte) : Value :=
  match k with
  | .busyPoll => .ok
  | .readBytes => .bytes out
  | .readDeviceData => .bytes out
  | .readAddressCounter => .byte (addressCounterOf (out.headD 0))

/-- A read operation in progress has ended: its result goes to the host and nothing of it stays in progress. -/
def finish (r : OpResult) (s : State) : State := { giveResult r s with job := none }

/-- After a byte has been read: the next poll, or the end. -/
def jobNext (j : ReadJob) (b : Byte) (s : State) : State :=
  if j.remaining ≤ 1 then finish (.value (jobValue j.kind (j.out ++ [b]))) s
  else { s with job := some { j with remaining := j.remaining - 1, out := j.out ++ [b] } }

/-- After a poll that saw the flag clear: the end of a bare poll, or the byte's read. -/
def jobRead (j : ReadJob) (s : State) : State :=
  match j.kind with
  | .busyPoll => finish (.value .ok) s
  | .readBytes | .readDeviceData | .readAddressCounter =>
    match readByte j.rs j.c s with
    | (.ok b, s') => jobNext j b s'
    | (.error e, s') => finish (.error e) s'

/-- One step of a read operation: one poll iteration and, if the flag is clear, the read of one byte. While the flag is set
the operation stays in progress, with no bound (R151). An error ends it and discards the bytes read (R152). -/
def jobStep (j : ReadJob) (s : State) : State :=
  match pollOnce j.c s with
  | (.ok true, s') => { s' with job := some j }
  | (.ok false, s') => jobRead j s'
  | (.error e, s') => finish (.error e) s'

/-- `read_bytes(RS, N, C)` after its capability check (R152): N = 0 returns at once, with no event. -/
def startRead (kind : ReadKind) (rs : Bool) (n : Nat) (c : Byte) (s : State) : Outcome :=
  if n = 0 then answer (fun _ => jobValue kind []) s
  else .next (jobStep ⟨kind, rs, c, n, []⟩ s)

/-! ### Configuring an instance -/

/-- R8, R32, R260: a new instance, with the adapter's default address unless the caller gives one, or the refusal of a
configuration for which no instance exists. -/
def configure (a : Adapter) (address : Option Nat) (g : Geometry) : Except Refusal State :=
  let addr := address.getD (defaultBusAddrOf a).toNat
  if 0x7F < addr then .error .badBusAddress
  else if geometryWellFormed a g then .ok (State.resetWith ⟨a, BitVec.ofNat 7 addr, g⟩)
  else .error .badGeometry

end Sys2Proof.Machine
end

