-- ==== Sys2Proof/Machine/Adapter.lean ====
section
/-! DEFINITION. The adapter port (spec 40_encoder_adapter.md R100 to R117): available in both FSM states. -/

namespace Sys2Proof.Machine

/-- R102: the adapter's default address, not `BUS_ADDR`. -/
def execDefaultBusAddress (s : State) : Outcome :=
  answer (fun s => .address (defaultBusAddrOf s.cfg.adapter)) s

/-- R103. -/
def execAdapterSupportsReads (s : State) : Outcome :=
  answer (fun s => .bool (supportsReadsOf s.cfg.adapter)) s

/-- R104. -/
def execControllerCount (s : State) : Outcome :=
  answer (fun s => .count (controllerCountOf s.cfg.adapter)) s

/-- R105: only ROWS and COLS are examined. -/
def execIsCompatible (g : Geometry) (s : State) : Outcome :=
  answer (fun s => .bool (isCompatibleWith s.cfg.adapter g)) s

/-- R101: the frame of `SIG`, with no event. -/
def execEncode (s : State) : Outcome :=
  answer (fun s => .bytes (encodeFrame s.cfg.adapter s.sig)) s

/-- R110. -/
def execWriteStateToBus (s : State) : Outcome := complete okValue writeStateToBus s

/-- R111. -/
def execHardwareInit (s : State) : Outcome := complete okValue hardwareInit s

/-- R112. -/
def execSetRs (v : Bool) (s : State) : Outcome := complete okValue (setRs v) s

/-- R113. -/
def execSetRw (v : Bool) (s : State) : Outcome := complete okValue (setRw v) s

/-- R114. -/
def execSetBacklight (v : Bool) (s : State) : Outcome := complete okValue (setBacklight v) s

/-- R115. -/
def execSetEnable (v : Bool) (idx : Byte) (s : State) : Outcome := complete okValue (setEnable v idx) s

/-- R116. -/
def execSetData (nib : Nibble) (s : State) : Outcome := complete okValue (setData nib) s

end Sys2Proof.Machine
end

