-- ==== Sys2Proof/Machine/Controller.lean ====
section
/-! DEFINITION. The host port (spec 42_controller.md R170 to R205). Every operation but `init` and `supports_reads` is
refused in state `UNINIT` (R171). -/

namespace Sys2Proof.Machine

/-- R172 to R180: allowed in both states. -/
def execInit (s : State) : Outcome := complete okValue initSequence s

/-- R182. -/
def execClear (s : State) : Outcome :=
  whenReady s (complete okValue (fanOut fun c => command c clearCommand tClearHome) s)

/-- R183: `ACTIVE` is reset after the last command has succeeded. -/
def execHome (s : State) : Outcome :=
  whenReady s (complete okValue
    (seqOps [fanOut fun c => command c homeCommand tClearHome, setActive 0]) s)

/-- R186, R188. -/
def execSetCursor (col row : Byte) (s : State) : Outcome :=
  whenReady s (complete okValue (setCursor col row) s)

/-- R191. -/
def execShowCursor (on : Bool) (s : State) : Outcome :=
  whenReady s (complete okValue (fanOut (changeCursor (withCursor on))) s)

/-- R192. -/
def execBlinkCursor (on : Bool) (s : State) : Outcome :=
  whenReady s (complete okValue (fanOut (changeCursor (withBlink on))) s)

/-- R190. -/
def execShowDisplay (on : Bool) (s : State) : Outcome :=
  whenReady s (complete okValue (fanOut (changeControl (withDisplay on))) s)

/-- R193. -/
def execScrollLeft (s : State) : Outcome :=
  whenReady s (complete okValue (fanOut fun c => command c (shiftCommand false) tCmd) s)

/-- R194. -/
def execScrollRight (s : State) : Outcome :=
  whenReady s (complete okValue (fanOut fun c => command c (shiftCommand true) tCmd) s)

/-- R195. -/
def execLeftToRight (s : State) : Outcome :=
  whenReady s (complete okValue (fanOut (changeEntry withLeftToRight)) s)

/-- R196. -/
def execRightToLeft (s : State) : Outcome :=
  whenReady s (complete okValue (fanOut (changeEntry withRightToLeft)) s)

/-- R197. -/
def execAutoscroll (on : Bool) (s : State) : Outcome :=
  whenReady s (complete okValue (fanOut (changeEntry (withAutoscroll on))) s)

/-- R198; a `LOC` of 8 or more is refused (R95). -/
def execCreateChar (loc : Byte) (g : Glyph) (s : State) : Outcome :=
  if loc.ult 8 then whenReady s (complete okValue (fanOut (defineGlyph loc g)) s)
  else .refused .operandDoesNotFit

/-- R199. -/
def execPrint (text : List Byte) (s : State) : Outcome :=
  whenReady s (complete okValue (printText text) s)

/-- R202: one frame of the retained `SIG`, no delay. -/
def execBacklight (on : Bool) (s : State) : Outcome :=
  whenReady s (complete okValue (seqOps [setBacklight on, writeStateToBus]) s)

/-- R200: `ReadNotSupported` before any event, else `read_bytes(1, N, ACTIVE)`. -/
def execReadDeviceData (n : Nat) (s : State) : Outcome :=
  whenReady s (if supportsReadsOf s.cfg.adapter
    then startRead .readDeviceData true n (controllerByte s.active) s
    else complete okValue (raise .readNotSupported) s)

/-- R201: `read_bytes(0, 1, ACTIVE)`, the busy bit masked off. -/
def execReadAddressCounter (s : State) : Outcome :=
  whenReady s (if supportsReadsOf s.cfg.adapter
    then startRead .readAddressCounter false 1 (controllerByte s.active) s
    else complete okValue (raise .readNotSupported) s)

/-- R203: allowed in both states. -/
def execSupportsReads (s : State) : Outcome :=
  answer (fun s => .bool (supportsReadsOf s.cfg.adapter)) s

end Sys2Proof.Machine
end

