-- ==== Sys2Proof/Machine/Engine.lean ====
section
/-! DEFINITION. The engine port (spec 41_protocol_engine.md R140 to R154): available in both FSM states. -/

namespace Sys2Proof.Machine

/-- R141. -/
def execWriteNibble (rs : Bool) (nib : Nibble) (c : Byte) (s : State) : Outcome :=
  complete okValue (writeNibble rs nib c) s

/-- R142. -/
def execWriteByte (rs : Bool) (b : Byte) (c : Byte) (s : State) : Outcome :=
  complete okValue (writeByte rs b c) s

/-- R145, R147: no poll before the read. -/
def execReadByte (rs : Bool) (c : Byte) (s : State) : Outcome :=
  whenReadable s (complete .byte (readByte rs c) s)

/-- R145, R150, R151: the first iteration of the poll; `step` runs the later ones. -/
def execBusyPoll (c : Byte) (s : State) : Outcome :=
  whenReadable s (.next (jobStep ⟨.busyPoll, false, c, 0, []⟩ s))

/-- R145, R152. -/
def execReadBytes (rs : Bool) (n : Nat) (c : Byte) (s : State) : Outcome :=
  whenReadable s (startRead .readBytes rs n c s)

end Sys2Proof.Machine
end

