-- ==== Sys2Proof/Machine/Frames.lean ====
section
/-! DEFINITION. The bus frames run by themselves (spec 30_encoding.md R71 to R75; assumption 9): the setters stage the frame's
signals (R117) and `write_state_to_bus` sends it (R110), so that the bytes on the bus are the frame's; the read is one that
the engine's read strobe makes (assumption 12). A frame of another
adapter than the configured one has no meaning (assumption 14). -/

namespace Sys2Proof.Machine

/-- R71. -/
def execFrameGeneric (data : Nibble) (bl en rw rs : Bool) (s : State) : Outcome :=
  whenAdapter .genericPcf8574t s (complete okValue
    (seqOps [setRs rs, setRw rw, setBacklight bl, setEnable en 0, setData data, writeStateToBus]) s)

/-- R72. -/
def execFrameAdafruit (bl : Bool) (data : Nibble) (en rs : Bool) (s : State) : Outcome :=
  whenAdapter .adafruitMcp23008 s (complete okValue
    (seqOps [setRs rs, setBacklight bl, setEnable en 0, setData data, writeStateToBus]) s)

/-- R74: the power-up frame carries no signal and touches none. -/
def execPowerupAdafruit (s : State) : Outcome :=
  whenAdapter .adafruitMcp23008 s (complete okValue (memWrite powerupFrame) s)

/-- R73. -/
def execFrameDual (data : Nibble) (bl en0 en1 rs : Bool) (s : State) : Outcome :=
  whenAdapter .dualPcf8574t s (complete okValue
    (seqOps [setRs rs, setBacklight bl, setEnable en0 0, setEnable en1 1, setData data, writeStateToBus]) s)

/-- R54, R75, R146: a read transaction comes from a read strobe alone, so the row is one status nibble read as R150 reads it
(assumption 12). -/
def execReadNibbleGeneric (s : State) : Outcome :=
  whenAdapter .genericPcf8574t s (complete .nibble (readNibble 0) s)

end Sys2Proof.Machine
end

