-- ==== Sys2Proof/Machine/Lcd.lean ====
section
/-! DEFINITION. The HD44780 commands, handshake nibbles and transfers run by themselves (spec 30_encoding.md R77 to R89;
assumptions 10 to 12): each is the step of the block that sends it to controller c, with the mode byte it shadows in state
`READY` (R189) and its settle delay (R144, R184). Like the engine port they run in both FSM states (R140), and in `UNINIT`
they write no mode byte (R29). -/

namespace Sys2Proof.Machine

/-- R79. -/
def execClearDisplay (c : Byte) (s : State) : Outcome :=
  complete okValue (command c clearCommand tClearHome) s

/-- R82. -/
def execReturnHome (c : Byte) (s : State) : Outcome :=
  complete okValue (command c homeCommand tClearHome) s

/-- R84, R189: the entry byte is shadowed in `READY` (R29). -/
def execEntryModeSet (c : Byte) (incr shift : Bool) (s : State) : Outcome :=
  complete okValue (seqOps [whileReady (writeEntry c (entryFlags incr shift)),
    command c (entryCommand (entryFlags incr shift)) tCmd]) s

/-- R81, R189: the control byte is shadowed in `READY` (R29). -/
def execDisplayControl (c : Byte) (display cursor blink : Bool) (s : State) : Outcome :=
  complete okValue (seqOps [whileReady (writeControl c (controlFlags display cursor blink)),
    command c (controlCommand (controlFlags display cursor blink)) tCmd]) s

/-- R83. -/
def execCursorDisplayShift (c : Byte) (right : Bool) (s : State) : Outcome :=
  complete okValue (command c (shiftCommand right) tCmd) s

/-- R80: the byte sent is always 0x28. R26, R29: the function byte is written by `init` alone. -/
def execFunctionSet (c : Byte) (s : State) : Outcome :=
  complete okValue (command c (functionCommand initFunction) tCmd) s

/-- R85. -/
def execSetCgramAddr (c : Byte) (loc : BitVec 3) (s : State) : Outcome :=
  complete okValue (command c (cgramCommand (loc.setWidth 8)) tCmd) s

/-- R86. -/
def execSetDdramAddr (c : Byte) (addr : BitVec 7) (s : State) : Outcome :=
  complete okValue (command c (ddramCommand (addr.setWidth 8)) tCmd) s

/-- R87: one nibble write; the delays around it are steps of `init` (R175; assumption 11). -/
def execHandshakeNibble3 (c : Byte) (s : State) : Outcome :=
  complete okValue (writeNibble false handshakeNibble c) s

/-- R87: one nibble write; the delay after it is a step of `init` (R176; assumption 11). -/
def execHandshakeNibble2 (c : Byte) (s : State) : Outcome :=
  complete okValue (writeNibble false commitNibble c) s

/-- R89, R144: one data byte and its settle delay. -/
def execDataWrite (c b : Byte) (s : State) : Outcome :=
  complete okValue (dataByte c b) s

/-- R88: the status byte, read with RS = 0 (R147). -/
def execStatusRead (c : Byte) (s : State) : Outcome :=
  whenReadable s (complete .byte (readByte false c) s)

/-- R89: a data byte, read with RS = 1 (R147). -/
def execDataRead (c : Byte) (s : State) : Outcome :=
  whenReadable s (complete .byte (readByte true c) s)

end Sys2Proof.Machine
end

