-- ==== Sys2Proof/Machine/Dispatch.lean ====
section
/-! DEFINITION. exec: one arm per instruction, each one direct call of its meaning. -/

namespace Sys2Proof.Machine

def exec (i : Instr) (s : State) : Host.Outcome State Fault Refusal :=
  match i with
  -- host port (42_controller.md)
  | .init => Sys2Proof.Machine.execInit s
  | .clear => Sys2Proof.Machine.execClear s
  | .home => Sys2Proof.Machine.execHome s
  | .setCursor col row => Sys2Proof.Machine.execSetCursor col row s
  | .showCursor on => Sys2Proof.Machine.execShowCursor on s
  | .blinkCursor on => Sys2Proof.Machine.execBlinkCursor on s
  | .showDisplay on => Sys2Proof.Machine.execShowDisplay on s
  | .scrollLeft => Sys2Proof.Machine.execScrollLeft s
  | .scrollRight => Sys2Proof.Machine.execScrollRight s
  | .leftToRight => Sys2Proof.Machine.execLeftToRight s
  | .rightToLeft => Sys2Proof.Machine.execRightToLeft s
  | .autoscroll on => Sys2Proof.Machine.execAutoscroll on s
  | .createChar loc glyph => Sys2Proof.Machine.execCreateChar loc glyph s
  | .print text => Sys2Proof.Machine.execPrint text s
  | .backlight on => Sys2Proof.Machine.execBacklight on s
  | .readDeviceData n => Sys2Proof.Machine.execReadDeviceData n s
  | .readAddressCounter => Sys2Proof.Machine.execReadAddressCounter s
  | .supportsReads => Sys2Proof.Machine.execSupportsReads s
  -- adapter port (40_encoder_adapter.md)
  | .defaultBusAddress => Sys2Proof.Machine.execDefaultBusAddress s
  | .adapterSupportsReads => Sys2Proof.Machine.execAdapterSupportsReads s
  | .controllerCount => Sys2Proof.Machine.execControllerCount s
  | .isCompatible g => Sys2Proof.Machine.execIsCompatible g s
  | .hardwareInit => Sys2Proof.Machine.execHardwareInit s
  | .setRs v => Sys2Proof.Machine.execSetRs v s
  | .setRw v => Sys2Proof.Machine.execSetRw v s
  | .setBacklight v => Sys2Proof.Machine.execSetBacklight v s
  | .setEnable v idx => Sys2Proof.Machine.execSetEnable v idx s
  | .setData nib => Sys2Proof.Machine.execSetData nib s
  | .writeStateToBus => Sys2Proof.Machine.execWriteStateToBus s
  | .encode => Sys2Proof.Machine.execEncode s
  -- engine port (41_protocol_engine.md)
  | .writeNibble rs nib c => Sys2Proof.Machine.execWriteNibble rs nib c s
  | .writeByte rs b c => Sys2Proof.Machine.execWriteByte rs b c s
  | .readByte rs c => Sys2Proof.Machine.execReadByte rs c s
  | .busyPoll c => Sys2Proof.Machine.execBusyPoll c s
  | .readBytes rs n c => Sys2Proof.Machine.execReadBytes rs n c s
  -- bus frames (30_encoding.md R71 to R75)
  | .frameGeneric data bl en rw rs => Sys2Proof.Machine.execFrameGeneric data bl en rw rs s
  | .frameAdafruit bl data en rs => Sys2Proof.Machine.execFrameAdafruit bl data en rs s
  | .powerupAdafruit => Sys2Proof.Machine.execPowerupAdafruit s
  | .frameDual data bl en0 en1 rs => Sys2Proof.Machine.execFrameDual data bl en0 en1 rs s
  | .readNibbleGeneric => Sys2Proof.Machine.execReadNibbleGeneric s
  -- HD44780 commands to controller c (30_encoding.md R79 to R86)
  | .clearDisplay c => Sys2Proof.Machine.execClearDisplay c s
  | .returnHome c => Sys2Proof.Machine.execReturnHome c s
  | .entryModeSet c incr shift => Sys2Proof.Machine.execEntryModeSet c incr shift s
  | .displayControl c display cursor blink => Sys2Proof.Machine.execDisplayControl c display cursor blink s
  | .cursorDisplayShift c right => Sys2Proof.Machine.execCursorDisplayShift c right s
  | .functionSet c => Sys2Proof.Machine.execFunctionSet c s
  | .setCgramAddr c loc => Sys2Proof.Machine.execSetCgramAddr c loc s
  | .setDdramAddr c addr => Sys2Proof.Machine.execSetDdramAddr c addr s
  -- handshake nibbles (R87) and transfers (R88, R89)
  | .handshakeNibble3 c => Sys2Proof.Machine.execHandshakeNibble3 c s
  | .handshakeNibble2 c => Sys2Proof.Machine.execHandshakeNibble2 c s
  | .dataWrite c b => Sys2Proof.Machine.execDataWrite c b s
  | .statusRead c => Sys2Proof.Machine.execStatusRead c s
  | .dataRead c => Sys2Proof.Machine.execDataRead c s

end Sys2Proof.Machine
end

