-- ==== Sys2Proof/Machine/Step.lean ====
section
/-! DEFINITION. One step of the machine (spec 10_state.md R21, 00_scope.md R15): a faulted block takes no step (R240); a read
operation in progress takes its next iteration (R151); otherwise the host's next request is decoded and run to its end, or
the block is idle. -/

namespace Sys2Proof.Machine

/-- Runs the packet the host presents: the decoded instruction, or the refusal of R95. -/
def runPacket (p : Packet) (s : State) : Host.Outcome State Fault Refusal :=
  match decode p with
  | .ok i => exec i s
  | .error r => .refused (.badRequest r)

/-- One step. -/
def step (s : State) : Host.Outcome State Fault Refusal :=
  match s.fault, s.job, s.requests with
  | some f, _, _ => .fault f
  | none, some j, _ => .next (jobStep j s)
  | none, none, [] => .next s
  | none, none, p :: rest => runPacket p { s with requests := rest }

/-- The state in which the next step runs the instruction of a word of the opcode table (assumption 16): the packet is the
host's next request, and no earlier operation is in progress or faulted. -/
def State.withFetchWord (s : State) (nbits w : Nat) : State :=
  { s with requests := tablePacket nbits w :: s.requests, job := none, fault := none }

end Sys2Proof.Machine
end

