-- ==== Sys2Proof/Safety.lean ====
section
/-! DEFINITION. The terms claims use: outcomes, what the bus answers over the coming transactions, and the invariant of the
block's state (spec 10_state.md R23, R26 to R33; 42_controller.md R173; 60_exceptions.md R240). -/

namespace Sys2Proof.Machine

/-- The next state of an outcome, if it is one. -/
def nextState? : Host.Outcome State Fault Refusal → Option State
  | .next s => some s
  | .fault _ => none
  | .refused _ => none

/-- An outcome is safe when the machine goes on. -/
def Safe (o : Host.Outcome State Fault Refusal) : Prop := ∃ t, o = .next t

/-- The bus's answer to the k-th of the coming transactions (R52, R53). -/
def answerAt (s : State) (k : Nat) : BusAnswer :=
  s.busScript.getD k (Config.busAnswer (s.txn + k))

/-- The answer is a success. -/
def answerOk : BusAnswer → Bool
  | .ok _ => true
  | .err _ => false

/-- The byte a successful read returns. -/
def answerData : BusAnswer → Byte
  | .ok b => b
  | .err _ => 0

/-- A transaction event, not a delay. -/
def isTransaction : Event → Bool
  | .busWrite _ _ => true
  | .busRead _ => true
  | .delay _ => false

/-- The next n transactions all succeed. -/
def Acks (s : State) (n : Nat) : Prop := ∀ k, k < n → answerOk (answerAt s k) = true

/-- R26 to R28: only the flag bits of a mode byte are ever set, and the function byte is 0x08. -/
def ModeShape (m : ModeBytes) : Prop :=
  (m.function = none ∨ m.function = some 0x08) ∧
  (∀ v, m.control = some v → v &&& 0xF8 = 0) ∧
  (∀ v, m.entry = some v → v &&& 0xFC = 0)

/-- All three mode bytes hold a value. -/
def ModeHeld (m : ModeBytes) : Prop :=
  m.function.isSome = true ∧ m.control.isSome = true ∧ m.entry.isSome = true

/-- Every controller the adapter has, has its mode bytes. -/
def ModesHeld (s : State) : Prop :=
  ModeHeld s.mode0 ∧ (controllerCountOf s.cfg.adapter = 2 → ModeHeld s.mode1)

/-- What holds of a configured instance at all times. -/
structure BlockInv (s : State) : Prop where
  /-- R32: the geometry is one an instance can have. -/
  geometry : geometryWellFormed s.cfg.adapter s.cfg.geometry = true
  /-- R31: `ACTIVE < CONTROLLER_COUNT`. -/
  active : s.active.toNat < controllerCountOf s.cfg.adapter
  /-- R23: without an RW line `SIG.RW` stays 0. -/
  rw : hasRwOf s.cfg.adapter = false → s.sig.rw = false
  /-- R23: without a second controller `SIG.EN[1]` stays 0. -/
  en1 : controllerCountOf s.cfg.adapter = 1 → s.sig.en1 = false
  /-- R30: entries beyond the controller count are never written. -/
  mode1 : controllerCountOf s.cfg.adapter = 1 → s.mode1 = ModeBytes.reset
  /-- R26 to R28. -/
  shape0 : ModeShape s.mode0
  /-- R26 to R28. -/
  shape1 : ModeShape s.mode1
  /-- R29, R171: in `READY` every mode byte an operation can read has a value. -/
  held : s.fsm = .ready → ModesHeld s
  /-- R173: an incompatible instance never leaves `UNINIT`. -/
  compatible : s.fsm = .ready → isCompatibleWith s.cfg.adapter s.cfg.geometry = true
  /-- R54, R145: a read is in progress only on an adapter with reads. -/
  reading : s.job.isSome = true → supportsReadsOf s.cfg.adapter = true
  /-- R240: a fault arises only on an adapter without reads. -/
  faulted : s.fault.isSome = true → supportsReadsOf s.cfg.adapter = false

end Sys2Proof.Machine
end

