-- ==== Sys2Proof/Certificates/Slice0/Obligations.lean ====
section
/-! DEFINITION. The statements about the block, from the numbered rules of spec/. The first part is their vocabulary: what
the rules say an acknowledged transfer leaves behind, written from the rules and not from the meanings. -/

namespace Sys2Proof.Claims

open Sys2Proof.Machine

/-! ### Vocabulary -/

/-- The operation's result has been given to the host (R36). -/
def returned (v : Value) (s : State) : State := { s with results := s.results ++ [.value v] }

/-- The operation ended with an error result (R231, R236). -/
def failed (e : OpError) (s : State) : State := { s with results := s.results ++ [.error e] }

/-- `s` after n transactions that recorded `evs` and left the signals `g`; nothing else changed. -/
def sent (s : State) (evs : List Event) (n : Nat) (g : SignalState) : State :=
  { s with trace := s.trace ++ evs, sig := g, busScript := s.busScript.drop n, txn := s.txn + n }

/-- `BusWrite(BUS_ADDR, ENCODE(ADAPTER, g))`. -/
def frame (s : State) (g : SignalState) : Event := .busWrite s.cfg.busAddr (encodeFrame s.cfg.adapter g)

/-- `Delay(t)` (R56). -/
def delayed (t : Nat) (s : State) : State := { s with trace := s.trace ++ [.delay t] }

/-- `SIG.EN[c] = v`. -/
def withEn (c : Byte) (v : Bool) (g : SignalState) : SignalState :=
  if c = 0 then { g with en0 := v } else if c = 1 then { g with en1 := v } else g

/-- The signals staged before a nibble write (R141): RS, RW = 0 where present, DATA. -/
def staged (a : Adapter) (rs : Bool) (nib : Nibble) (g : SignalState) : SignalState :=
  { g with rs := rs, rw := (!hasRwOf a) && g.rw, data := nib }

/-- The signals of the two frames of a nibble write (R141, R143). -/
def strobe (a : Adapter) (rs : Bool) (nib : Nibble) (c : Byte) (en : Bool) (g : SignalState) : SignalState :=
  withEn c en (staged a rs nib g)

/-- After an acknowledged `write_nibble RS, NIB, C` (R141). -/
def nibbleSent (rs : Bool) (nib : Nibble) (c : Byte) (s : State) : State :=
  let g (en : Bool) := strobe s.cfg.adapter rs nib c en s.sig
  sent s [frame s (g true), frame s (g false)] 2 (g false)

/-- After an acknowledged `write_byte RS, B, C` (R143): four frames, each from the signals at entry. -/
def byteSent (rs : Bool) (b : Byte) (c : Byte) (s : State) : State :=
  let g (nib : Nibble) (en : Bool) := strobe s.cfg.adapter rs nib c en s.sig
  let hi : Nibble := (b >>> 4).setWidth 4
  let lo : Nibble := b.setWidth 4
  sent s [frame s (g hi true), frame s (g hi false), frame s (g lo true), frame s (g lo false)] 4 (g lo false)

/-- After an acknowledged command byte and its settle delay (R144, R184). -/
def commandSent (b : Byte) (t : Nat) (c : Byte) (s : State) : State := delayed t (byteSent false b c s)

/-- After an acknowledged data byte and its settle delay (R144, R184). -/
def dataSent (c : Byte) (s : State) (b : Byte) : State := delayed 43 (byteSent true b c s)

/-- A fan-out (R185): controller 0, then controller 1 where there is one. -/
def eachController (f : Byte → State → State) (s : State) : State :=
  match s.cfg.adapter with
  | .dualPcf8574t => f 1 (f 0 s)
  | .genericPcf8574t => f 0 s
  | .adafruitMcp23008 => f 0 s

/-- The number of controllers of the configured adapter. -/
def count (s : State) : Nat := controllerCountOf s.cfg.adapter

/-- The mode bytes of controller c, changed by f. -/
def changeMode (c : Byte) (f : ModeBytes → ModeBytes) (s : State) : State :=
  if c = 0 then { s with mode0 := f s.mode0 } else { s with mode1 := f s.mode1 }

/-- The mode bytes of controller c. -/
def modeOf (c : Byte) (s : State) : ModeBytes := if c = 0 then s.mode0 else s.mode1

/-- R189 for a control byte: `MODE[c].control <- v`, then `0x08 | v` and `Delay(39)`. -/
def controlSent (v : Byte) (c : Byte) (s : State) : State :=
  commandSent (0x08 ||| v) 39 c (changeMode c (fun m => { m with control := some v }) s)

/-- R189 for an entry byte: `MODE[c].entry <- v`, then `0x04 | v` and `Delay(39)`. -/
def entrySent (v : Byte) (c : Byte) (s : State) : State :=
  commandSent (0x04 ||| v) 39 c (changeMode c (fun m => { m with entry := some v }) s)

/-- R172 3c: `MODE[c].function <- 0x08`, then `0x28` and `Delay(39)`. -/
def functionSent (c : Byte) (s : State) : State :=
  commandSent 0x28 39 c (changeMode c (fun m => { m with function := some 0x08 }) s)

/-- The control byte of controller c, where it has one. -/
def control (c : Byte) (s : State) : Byte := (modeOf c s).control.getD 0

/-- The entry byte of controller c, where it has one. -/
def entry (c : Byte) (s : State) : Byte := (modeOf c s).entry.getD 0

/-- R191, R192: `v` for the active controller, cursor and blink off for the others. -/
def cursorByte (v : Byte → Byte) (c : Byte) (s : State) : Byte :=
  if c.toNat = s.active.toNat then v (control c s) else control c s &&& 0xFC

/-- The control byte changed by f. -/
def mapControl (f : Byte → Byte) (m : ModeBytes) : ModeBytes := { m with control := m.control.map f }

/-- The entry byte changed by f. -/
def mapEntry (f : Byte → Byte) (m : ModeBytes) : ModeBytes := { m with entry := m.entry.map f }

/-- The instruction leaves `u c` in the mode bytes of controller c: of controller 0 whatever the bus answers, and of
controller 1 whatever it answers once controller 0's command is acknowledged. -/
def WritesModeFirst (s : State) (i : Instr) (u : Byte → ModeBytes → ModeBytes) : Prop :=
  ∃ t, exec i s = .next t ∧ t.mode0 = u 0 s.mode0 ∧
    (s.cfg.adapter = .dualPcf8574t → Acks s 4 → t.mode1 = u 1 s.mode1)

/-- R172 steps 3a to 3f for controller c. -/
def controllerInitialized (c : Byte) (s : State) : State :=
  commandSent 0x02 2000 c <| commandSent 0x01 2000 c <|
  entrySent 0x02 c <| controlSent 0x04 c <| functionSent c <|
  delayed 39 <| nibbleSent false 0x2 c <|
  delayed 150 <| nibbleSent false 0x3 c <|
  delayed 5000 <| nibbleSent false 0x3 c <|
  delayed 5000 <| nibbleSent false 0x3 c s

/-- R172 step 2: the power-up write of the MCP23008. -/
def poweredUp (s : State) : State :=
  if s.cfg.adapter = .adafruitMcp23008 then sent s [.busWrite s.cfg.busAddr [0x00, 0x00]] 1 s.sig else s

/-- R172 step 4: backlight on, with one frame. -/
def backlightSent (on : Bool) (s : State) : State :=
  sent s [frame s { s.sig with bl := on }] 1 { s.sig with bl := on }

/-- R172: the state a successful `init` leaves. -/
def initialized (s : State) : State :=
  { backlightSent true (eachController controllerInitialized (poweredUp { s with fsm := .uninit })) with
    active := 0, fsm := .ready }

/-- The transactions of a successful `init`: the power-up write, 28 per controller, the backlight frame. -/
def initTransactions (s : State) : Nat :=
  (if s.cfg.adapter = .adafruitMcp23008 then 1 else 0) + 28 * count s + 1

/-- R198 for controller c. -/
def glyphSent (loc : Byte) (g : Glyph) (c : Byte) (s : State) : State :=
  [g.row0, g.row1, g.row2, g.row3, g.row4, g.row5, g.row6, g.row7].foldl (dataSent c)
    (commandSent (0x40 ||| (loc <<< 3)) 39 c s)

/-- The signals while a read sets up and strobes controller 0 (R147, R150): RW = 1, DATA = 0xF. -/
def readSig (rs en rw : Bool) (g : SignalState) : SignalState :=
  { g with rs := rs, rw := rw, en0 := en, data := 0xF }

/-- After one acknowledged poll iteration on controller 0 (R150): 6 writes and 1 read. -/
def pollSent (s : State) : State :=
  let w (en rw : Bool) := frame s (readSig false en rw s.sig)
  sent s [w false true, w true true, .busRead s.cfg.busAddr, w false true, w true true, w false true, w false false] 7
    (readSig false false false s.sig)

/-- After an acknowledged `read_byte RS, 0` (R147): 6 writes and 2 reads. -/
def readSent (rs : Bool) (s : State) : State :=
  let w (en rw : Bool) := frame s (readSig rs en rw s.sig)
  sent s [w false true, w true true, .busRead s.cfg.busAddr, w false true,
    w true true, .busRead s.cfg.busAddr, w false true, w false false] 8
    (readSig rs false false s.sig)

/-- The byte two nibble reads give, the answers k and k + 3 (R148): `(hi << 4) | lo`. -/
def byteRead (s : State) (k : Nat) : Byte :=
  (answerData (answerAt s k) &&& 0xF0) ||| (answerData (answerAt s (k + 3)) >>> 4)

/-- The busy flag in answer k, bit 7 of the status byte (R88). -/
def busyIn (s : State) (k : Nat) : Bool := (answerData (answerAt s k)).getLsbD 7

/-- The bytes and the trace of a clear poll and its read (R152): 15 transactions. -/
def pollReadSent (rs : Bool) (s : State) : State := readSent rs (pollSent s)

/-- The operations of the adapter and engine ports, and the rows that run by themselves and shadow no mode byte. -/
def touchesSignalsOnly : Instr → Bool
  | .defaultBusAddress | .adapterSupportsReads | .controllerCount | .isCompatible _ | .hardwareInit => true
  | .setRs _ | .setRw _ | .setBacklight _ | .setEnable _ _ | .setData _ | .writeStateToBus | .encode => true
  | .writeNibble _ _ _ | .writeByte _ _ _ | .readByte _ _ | .busyPoll _ | .readBytes _ _ _ => true
  | .frameGeneric _ _ _ _ _ | .frameAdafruit _ _ _ _ | .powerupAdafruit | .frameDual _ _ _ _ _ => true
  | .readNibbleGeneric | .clearDisplay _ | .returnHome _ | .cursorDisplayShift _ _ => true
  | .functionSet _ | .setCgramAddr _ _ | .setDdramAddr _ _ | .handshakeNibble3 _ | .handshakeNibble2 _ => true
  | .dataWrite _ _ | .statusRead _ | .dataRead _ => true
  | .clear | .scrollLeft | .scrollRight | .createChar _ _ | .print _ | .backlight _ => true
  | .readDeviceData _ | .readAddressCounter | .supportsReads => true
  | _ => false

/-- The host operations that `UNINIT` refuses (R171). -/
def gated : Instr → Bool
  | .clear | .home | .setCursor _ _ | .showCursor _ | .blinkCursor _ | .showDisplay _ => true
  | .scrollLeft | .scrollRight | .leftToRight | .rightToLeft | .autoscroll _ => true
  | .createChar _ _ | .print _ | .backlight _ | .readDeviceData _ | .readAddressCounter => true
  | _ => false

/-- The instructions that may change `SIG.BL`. -/
def setsBacklight : Instr → Bool
  | .init | .backlight _ | .setBacklight _ => true
  | .frameGeneric _ _ _ _ _ | .frameAdafruit _ _ _ _ | .frameDual _ _ _ _ _ => true
  | _ => false

/-- The adapter whose bus frame an instruction is. -/
def frameAdapter : Instr → Option Adapter
  | .frameGeneric _ _ _ _ _ | .readNibbleGeneric => some .genericPcf8574t
  | .frameAdafruit _ _ _ _ | .powerupAdafruit => some .adafruitMcp23008
  | .frameDual _ _ _ _ _ => some .dualPcf8574t
  | _ => none

/-- The events the block may record (R10, R50, R51, R54, R63): writes of 1 byte on the PCF8574T variants and of the two
registers 0x00 and 0x09 on the MCP23008, reads on an adapter with reads, all at `BUS_ADDR`; the delays of R10. -/
def allowedEvent (cfg : Configuration) : Event → Prop
  | .busWrite addr bytes => addr = cfg.busAddr ∧
      (if cfg.adapter = .adafruitMcp23008 then bytes = [0x00, 0x00] ∨ ∃ b : Byte, bytes = [0x09, b] ∧ b.getLsbD 0 = false
       else ∃ b, bytes = [b])
  | .busRead addr => addr = cfg.busAddr ∧ supportsReadsOf cfg.adapter = true
  | .delay t => t = 5000 ∨ t = 150 ∨ t = 2000 ∨ t = 39 ∨ t = 43

end Sys2Proof.Claims

open Sys2Proof Sys2Proof.Machine Sys2Proof.Claims

/-! ### Configuration and reset -/

/-- R8, R32: exactly these configurations have an instance. -/
def Obligations.InstanceExistsExactlyForWellFormedConfigurations : Prop :=
  ∀ (a : Adapter) (addr : Option Nat) (g : Geometry),
    (∃ s, configure a addr g = .ok s) ↔
      (addr.getD (defaultBusAddrOf a).toNat ≤ 0x7F ∧ 1 ≤ g.rows.toNat ∧ g.rows.toNat ≤ 4 ∧ 1 ≤ g.cols.toNat ∧
        ∀ r : Byte, r.toNat < g.rows.toNat →
          (g.cols.toNat - 1) + (rowOffset g (rowMap a r).2).toNat ≤ 0x7F)

/-- R260, R261: what a new instance holds; reset records nothing. -/
def Obligations.ResetLeavesTheSpecifiedRegisters : Prop :=
  ∀ (a : Adapter) (addr : Option Nat) (g : Geometry) (s : State), configure a addr g = .ok s →
    s.cfg.adapter = a ∧ s.cfg.busAddr.toNat = addr.getD (defaultBusAddrOf a).toNat ∧ s.cfg.geometry = g ∧
    s.sig = ⟨false, false, false, false, false, 0x0⟩ ∧
    s.mode0 = ⟨none, none, none⟩ ∧ s.mode1 = ⟨none, none, none⟩ ∧
    s.active = 0 ∧ s.fsm = .uninit ∧ s.fault = none ∧ s.trace = []

/-! ### Encodings -/

/-- R71, R72, R73: the three frame layouts, bit by bit. -/
def Obligations.FramesPlaceEverySignalAtItsBit : Prop :=
  ∀ g : SignalState,
    (∃ f : Byte, encodeFrame .genericPcf8574t g = [f] ∧ f.getLsbD 0 = g.rs ∧ f.getLsbD 1 = g.rw ∧
      f.getLsbD 2 = g.en0 ∧ f.getLsbD 3 = g.bl ∧ ∀ k, k < 4 → f.getLsbD (4 + k) = g.data.getLsbD k) ∧
    (∃ f : Byte, encodeFrame .adafruitMcp23008 g = [0x09, f] ∧ f.getLsbD 0 = false ∧ f.getLsbD 1 = g.rs ∧
      f.getLsbD 2 = g.en0 ∧ f.getLsbD 7 = g.bl ∧ ∀ k, k < 4 → f.getLsbD (3 + k) = g.data.getLsbD k) ∧
    (∃ f : Byte, encodeFrame .dualPcf8574t g = [f] ∧ f.getLsbD 0 = g.rs ∧ f.getLsbD 1 = g.en1 ∧
      f.getLsbD 2 = g.en0 ∧ f.getLsbD 3 = g.bl ∧ ∀ k, k < 4 → f.getLsbD (4 + k) = g.data.getLsbD k)

/-- R92, R93: decoding an encoded well-formed instruction gives it back, with every operand. -/
def Obligations.DecodeOfEncodeIsTheInstruction : Prop :=
  ∀ i : Instr, i.wellFormed = true → decode (encode i) = .ok i

/-- R92, R93, R95: what the decoder reads is well-formed, and every packet but a command byte with ignored bits has one
meaning: it is the encoding of what it decodes to. -/
def Obligations.DecodedInstructionsAreWellFormedAndReencode : Prop :=
  ∀ (p : Packet) (i : Instr), decode p = .ok i →
    i.wellFormed = true ∧ ((∀ c, p.channel ≠ .lcdCommand c) → encode i = p)

/-- R95, R242: a request that is the encoding of no well-formed instruction is refused, and the run stops there: an unassigned
code, an operand of any operation that does not fit its field, a wrong number of operands (assumption 25). The later clauses
name the refusal. -/
def Obligations.IllegalRequestsAreRefused : Prop :=
  ∀ (s : State) (fields : List Nat) (rest : List Packet), s.fault = none → s.job = none →
    s.requests = ⟨.request, fields⟩ :: rest →
    (((∀ i : Instr, i.wellFormed = true → encode i ≠ ⟨.request, fields⟩) → ∃ r, step s = .refused (.badRequest r)) ∧
     (∀ opc ops, fields = opc :: ops →
        (opc = 0 ∨ (0x13 ≤ opc ∧ opc ≤ 0x1F) ∨ (0x2C ≤ opc ∧ opc ≤ 0x2F) ∨ 0x35 ≤ opc) →
        step s = .refused (.badRequest (.unassignedOpc opc))) ∧
     (∀ n, 0xF < n → fields = [0x29, n] → step s = .refused (.badRequest .operandDoesNotFit)) ∧
     (∀ opc n, opc ∈ [0x05, 0x06, 0x07, 0x0C, 0x0F, 0x25, 0x26, 0x27] → 1 < n → fields = [opc, n] →
        step s = .refused (.badRequest .operandDoesNotFit)) ∧
     (∀ col row, 0xFF < col ∨ 0xFF < row → fields = [0x04, col, row] →
        step s = .refused (.badRequest .operandDoesNotFit)) ∧
     (∀ loc ms, 8 ≤ loc → loc ≤ 0xFF → ms.length = 8 → (∀ m ∈ ms, m ≤ 0xFF) → fields = 0x0D :: loc :: ms →
        step s = .refused (.badRequest .operandDoesNotFit)))

/-- Words written out from R71 to R74, R78 and R93 decode to their instructions. -/
def Obligations.SpecWordsDecode : Prop :=
  decode ⟨.request, [0x04, 0x03, 0x01]⟩ = .ok (.setCursor 3 1) ∧
  decode ⟨.request, [0x31, 0, 0x28, 0]⟩ = .ok (.writeByte false 0x28 0) ∧
  decode ⟨.request, [0x28, 1, 1]⟩ = .ok (.setEnable true 1) ∧
  decode ⟨.busFrame .genericPcf8574t, [0x4D]⟩ = .ok (.frameGeneric 0x4 true true false true) ∧
  decode ⟨.busFrame .adafruitMcp23008, [0x09, 0x1C]⟩ = .ok (.frameAdafruit false 0x3 true false) ∧
  decode ⟨.busFrame .dualPcf8574t, [0x06]⟩ = .ok (.frameDual 0x0 false true true false) ∧
  decode ⟨.lcdCommand 1, [0x0E]⟩ = .ok (.displayControl 1 true true false) ∧
  decode ⟨.lcdCommand 0, [0xC3]⟩ = .ok (.setDdramAddr 0 0x43) ∧
  decode ⟨.lcdNibble 0, [0x3]⟩ = .ok (.handshakeNibble3 0)

/-! ### The step -/

/-- R15, R21: with no operation in progress, a step runs the host's next request. -/
def Obligations.StepRunsTheDecodedRequest : Prop :=
  ∀ (s : State) (p : Packet) (rest : List Packet) (i : Instr),
    s.fault = none → s.job = none → s.requests = p :: rest → decode p = .ok i →
    step s = exec i { s with requests := rest }

/-- R151, R240: a faulted block takes no step; an operation in progress goes on and no request is taken meanwhile (R245). -/
def Obligations.StepInAFaultOrAnOperationInProgress : Prop :=
  ∀ s : State,
    (∀ f, s.fault = some f → step s = .fault f) ∧
    (s.fault = none → s.job.isSome = true → ∃ t, step s = .next t ∧ t.requests = s.requests)

/-! ### Adapter port -/

/-- R101 to R106, R203: each query answers its value and changes nothing else. -/
def Obligations.QueriesAnswerWithoutEffect : Prop :=
  ∀ (s : State) (g : Geometry),
    exec .encode s = .next (returned (.bytes (encodeFrame s.cfg.adapter s.sig)) s) ∧
    exec .defaultBusAddress s = .next (returned (.address
      (match s.cfg.adapter with | .genericPcf8574t => 0x27 | .adafruitMcp23008 => 0x20 | .dualPcf8574t => 0x27)) s) ∧
    exec .adapterSupportsReads s = .next (returned (.bool (decide (s.cfg.adapter = .genericPcf8574t))) s) ∧
    exec .supportsReads s = .next (returned (.bool (decide (s.cfg.adapter = .genericPcf8574t))) s) ∧
    exec .controllerCount s = .next (returned (.count (if s.cfg.adapter = .dualPcf8574t then 2 else 1)) s) ∧
    exec (.isCompatible g) s = .next (returned (.bool
      (decide ((g.rows = 4 ∧ g.cols = 40) ↔ s.cfg.adapter = .dualPcf8574t))) s)

/-- R112, R113, R114, R116: each setter writes its field, or nothing where the adapter has no RW line, and no event; and its
request. -/
def Obligations.SettersStageOneSignal : Prop :=
  ∀ (s : State) (v : Bool) (nib : Nibble),
    decode ⟨.request, [0x25, if v then 1 else 0]⟩ = .ok (.setRs v) ∧
    decode ⟨.request, [0x26, if v then 1 else 0]⟩ = .ok (.setRw v) ∧
    decode ⟨.request, [0x27, if v then 1 else 0]⟩ = .ok (.setBacklight v) ∧
    decode ⟨.request, [0x29, nib.toNat]⟩ = .ok (.setData nib) ∧
    exec (.setRs v) s = .next (returned .ok { s with sig := { s.sig with rs := v } }) ∧
    exec (.setRw v) s = .next (returned .ok
      (if s.cfg.adapter = .genericPcf8574t then { s with sig := { s.sig with rw := v } } else s)) ∧
    exec (.setBacklight v) s = .next (returned .ok { s with sig := { s.sig with bl := v } }) ∧
    exec (.setData nib) s = .next (returned .ok { s with sig := { s.sig with data := nib } })

/-- R115: `set_enable` writes `EN[IDX]` below the controller count and fails without effect at or above it; and its
request. -/
def Obligations.SetEnableWritesOrReportsBadControllerId : Prop :=
  ∀ (s : State) (v : Bool) (idx : Byte),
    decode ⟨.request, [0x28, if v then 1 else 0, idx.toNat]⟩ = .ok (.setEnable v idx) ∧
    exec (.setEnable v idx) s =
      if idx.toNat < count s
      then .next (returned .ok { s with sig := if idx.toNat = 0 then { s.sig with en0 := v } else { s.sig with en1 := v } })
      else .next (failed (.badControllerId idx) s)

/-- R110: `write_state_to_bus` is one transaction of `ENCODE(ADAPTER, SIG)`, of 1 byte or 2, whatever the bus answers; and its
request. -/
def Obligations.WriteStateToBusSendsOneFrame : Prop :=
  ∀ s : State,
    decode ⟨.request, [0x2A]⟩ = .ok .writeStateToBus ∧
    (encodeFrame s.cfg.adapter s.sig).length = (if s.cfg.adapter = .adafruitMcp23008 then 2 else 1) ∧
    (∀ b, answerAt s 0 = .ok b →
      exec .writeStateToBus s = .next (returned .ok (sent s [frame s s.sig] 1 s.sig))) ∧
    (∀ e, answerAt s 0 = .err e →
      exec .writeStateToBus s = .next (failed (.busError e) (sent s [frame s s.sig] 1 s.sig)))

/-- R111: the power-up write on the MCP23008, nothing on the other adapters; and its request. -/
def Obligations.HardwareInitWritesIodirOnTheMcp23008Only : Prop :=
  ∀ s : State,
    decode ⟨.request, [0x24]⟩ = .ok .hardwareInit ∧
    (s.cfg.adapter ≠ .adafruitMcp23008 → exec .hardwareInit s = .next (returned .ok s)) ∧
    (∀ b, s.cfg.adapter = .adafruitMcp23008 → answerAt s 0 = .ok b →
      exec .hardwareInit s = .next (returned .ok (sent s [.busWrite s.cfg.busAddr [0x00, 0x00]] 1 s.sig))) ∧
    (∀ e, s.cfg.adapter = .adafruitMcp23008 → answerAt s 0 = .err e →
      exec .hardwareInit s = .next (failed (.busError e) (sent s [.busWrite s.cfg.busAddr [0x00, 0x00]] 1 s.sig)))

/-! ### Engine port -/

/-- R141, R270: two frames that differ in `EN[C]`, the second lowering it; a failed first frame leaves `SIG.EN[C] = 1`, a failed
second frame leaves it 0. -/
def Obligations.WriteNibbleStrobesTheEnableLine : Prop :=
  ∀ (s : State) (rs : Bool) (nib : Nibble) (c : Byte) (e : Nat), c.toNat < count s →
    let g (en : Bool) := strobe s.cfg.adapter rs nib c en s.sig
    (Acks s 2 → exec (.writeNibble rs nib c) s = .next (returned .ok (nibbleSent rs nib c s))) ∧
    (answerAt s 0 = .err e →
      exec (.writeNibble rs nib c) s = .next (failed (.busError e) (sent s [frame s (g true)] 1 (g true)))) ∧
    (∀ b, answerAt s 0 = .ok b → answerAt s 1 = .err e →
      exec (.writeNibble rs nib c) s =
        .next (failed (.busError e) (sent s [frame s (g true), frame s (g false)] 2 (g false))))

/-- R142, R143: four frames, high nibble first, and the signals at exit. -/
def Obligations.WriteByteSendsFourFrames : Prop :=
  ∀ (s : State) (rs : Bool) (b c : Byte), c.toNat < count s → Acks s 4 →
    exec (.writeByte rs b c) s = .next (returned .ok (byteSent rs b c s))

/-- R237: an engine operation with a bad index fails before any event, after RS, RW and DATA are staged. -/
def Obligations.BadControllerIdStagesSignalsAndSendsNothing : Prop :=
  ∀ (s : State) (rs : Bool) (nib : Nibble) (b c : Byte) (n : Nat), count s ≤ c.toNat →
    exec (.writeNibble rs nib c) s =
      .next (failed (.badControllerId c) { s with sig := staged s.cfg.adapter rs nib s.sig }) ∧
    exec (.writeByte rs b c) s =
      .next (failed (.badControllerId c) { s with sig := staged s.cfg.adapter rs ((b >>> 4).setWidth 4) s.sig }) ∧
    (s.cfg.adapter = .genericPcf8574t →
      exec (.readByte rs c) s =
        .next (failed (.badControllerId c) { s with sig := { s.sig with rs := rs, rw := true, data := 0xF } }) ∧
      exec (.busyPoll c) s =
        .next (failed (.badControllerId c) { s with sig := { s.sig with rs := false, rw := true, data := 0xF }, job := none }) ∧
      exec (.readBytes rs (n + 1) c) s =
        .next (failed (.badControllerId c) { s with sig := { s.sig with rs := false, rw := true, data := 0xF }, job := none }))

/-- R147, R148: six writes and two reads, and the byte of the two high halves. -/
def Obligations.ReadByteSendsSixWritesAndTwoReads : Prop :=
  ∀ (s : State) (rs : Bool), s.cfg.adapter = .genericPcf8574t → Acks s 8 →
    exec (.readByte rs 0) s = .next (returned (.byte (byteRead s 2)) (readSent rs s))

/-- R150: one iteration of a poll; it returns ok when the flag is clear and stays in progress when it is set. -/
def Obligations.BusyPollIterationFollowsTheFlag : Prop :=
  ∀ s : State, s.cfg.adapter = .genericPcf8574t → Acks s 7 →
    (busyIn s 2 = false →
      exec (.busyPoll 0) s = .next (returned .ok { pollSent s with job := none })) ∧
    (busyIn s 2 = true →
      exec (.busyPoll 0) s = .next { pollSent s with job := some ⟨.busyPoll, false, 0, 0, []⟩ })

/-- R151: while every status read returns the flag set, a read operation never returns. -/
def Obligations.StuckBusyFlagKeepsPolling : Prop :=
  ∀ (n : Nat) (s : State) (j : ReadJob), s.cfg.adapter = .genericPcf8574t → s.fault = none → s.job = some j → j.c = 0 →
    Acks s (7 * n) → (∀ k, k < n → busyIn s (7 * k + 2) = true) →
    ∃ t : State, Sys2Proof.core.run n s = .next t ∧ t.job = some j ∧ t.results = s.results ∧ t.requests = s.requests ∧
      t.txn = s.txn + 7 * n ∧ t.trace.length = s.trace.length + 7 * n

/-- R150, R152, R200, R201: the next step of a read in progress whose poll finds the flag clear, from any point of the read:
a bare poll returns, a byte is read, and the read goes on or returns what its operation returns (assumption 6). -/
def Obligations.AReadInProgressTakesItsNextByte : Prop :=
  ∀ (s : State) (j : ReadJob), s.cfg.adapter = .genericPcf8574t → s.fault = none → s.job = some j → j.c = 0 →
    busyIn s 2 = false →
    (j.kind = .busyPoll → Acks s 7 → step s = .next (returned .ok { pollSent s with job := none })) ∧
    (j.kind ≠ .busyPoll → Acks s 15 → 1 < j.remaining →
      step s = .next { pollReadSent j.rs s with
        job := some { j with remaining := j.remaining - 1, out := j.out ++ [byteRead s 9] } }) ∧
    (j.kind = .readBytes ∨ j.kind = .readDeviceData → Acks s 15 → j.remaining ≤ 1 →
      step s = .next (returned (.bytes (j.out ++ [byteRead s 9])) { pollReadSent j.rs s with job := none })) ∧
    (j.kind = .readAddressCounter → j.out = [] → Acks s 15 → j.remaining ≤ 1 →
      step s = .next (returned (.byte (byteRead s 9 &&& 0x7F)) { pollReadSent j.rs s with job := none }))

/-- R152, R200, R201: reading no byte returns at once, with no event; reading one is a poll that finds the flag clear, then
the byte. -/
def Obligations.ReadingABytePollsThenReads : Prop :=
  ∀ (s : State) (rs : Bool) (c : Byte), s.cfg.adapter = .genericPcf8574t →
    exec (.readBytes rs 0 c) s = .next (returned (.bytes []) s) ∧
    (s.fsm = .ready → exec (.readDeviceData 0) s = .next (returned (.bytes []) s)) ∧
    (Acks s 15 → busyIn s 2 = false →
      exec (.readBytes rs 1 0) s =
        .next (returned (.bytes [byteRead s 9]) { pollReadSent rs s with job := none }) ∧
      (s.fsm = .ready → s.active = 0 →
        exec (.readDeviceData 1) s =
          .next (returned (.bytes [byteRead s 9]) { pollReadSent true s with job := none }) ∧
        exec .readAddressCounter s =
          .next (returned (.byte (byteRead s 9 &&& 0x7F)) { pollReadSent false s with job := none })))

/-- R152, R154: N bytes whose polls all find the flag clear take N steps, 12 N writes and 3 N reads, and return in order. -/
def Obligations.ReadBytesReturnsTheBytesInOrder : Prop :=
  ∀ (n : Nat) (s : State) (rs : Bool) (i : Instr), s.cfg.adapter = .genericPcf8574t → s.fault = none →
    (i = .readBytes rs (n + 1) 0 ∨ (i = .readDeviceData (n + 1) ∧ rs = true ∧ s.fsm = .ready ∧ s.active = 0)) →
    Acks s (15 * (n + 1)) → (∀ k, k < n + 1 → busyIn s (15 * k + 2) = false) →
    ∃ t u : State, exec i s = .next t ∧ Sys2Proof.core.run n t = .next u ∧ u.job = none ∧ u.requests = s.requests ∧
      u.results = s.results ++ [.value (.bytes ((List.range (n + 1)).map fun k => byteRead s (15 * k + 9)))] ∧
      u.txn = s.txn + 15 * (n + 1) ∧ u.trace.length = s.trace.length + 15 * (n + 1)

/-- R145, R240: an engine read on an adapter without reads enters the faulted state with no other effect, and no step
follows; no other request of any port enters it, and no step of a read in progress. -/
def Obligations.UnsupportedReadFaultsAndStops : Prop :=
  (∀ (s : State) (rs : Bool) (n : Nat) (c : Byte), s.cfg.adapter ≠ .genericPcf8574t →
    ∀ i, i ∈ [Instr.readByte rs c, Instr.busyPoll c, Instr.readBytes rs n c] →
      exec i s = .next { s with fault := some .unsupportedRead } ∧
      step { s with fault := some .unsupportedRead } = .fault .unsupportedRead) ∧
  (∀ (i : Instr) (s t : State), exec i s = .next t → s.fault = none → t.fault ≠ none →
    (encode i).channel = .request →
    s.cfg.adapter ≠ .genericPcf8574t ∧
      ∃ rs n c, i ∈ [Instr.readByte rs c, Instr.busyPoll c, Instr.readBytes rs n c]) ∧
  (∀ s t : State, s.job.isSome = true → step s = .next t → t.fault = none)

/-! ### Host port -/

/-- R171: in `UNINIT` every host operation but `init` and `supports_reads` is refused. -/
def Obligations.HostOperationsBeforeInitAreRefused : Prop :=
  ∀ (i : Instr) (s : State), gated i = true → i.wellFormed = true → s.fsm = .uninit →
    exec i s = .refused .hostOperationBeforeInit

/-- R172 to R180: what a successful `init` sends and leaves. -/
def Obligations.InitRunsTheWholeSequence : Prop :=
  ∀ s : State, isCompatibleWith s.cfg.adapter s.cfg.geometry = true → Acks s (initTransactions s) →
    exec .init s = .next (returned .ok (initialized s))

/-- R26 to R28, R172: the registers a successful `init` leaves. -/
def Obligations.InitLeavesTheSpecifiedRegisters : Prop :=
  ∀ s : State, BlockInv s → isCompatibleWith s.cfg.adapter s.cfg.geometry = true → Acks s (initTransactions s) →
    ∃ t, exec .init s = .next t ∧ t.fsm = .ready ∧ t.active = 0 ∧
      t.sig = ⟨false, false, false, false, true, 0x2⟩ ∧
      t.mode0 = ⟨some 0x08, some 0x04, some 0x02⟩ ∧
      t.mode1 = (if s.cfg.adapter = .dualPcf8574t then ⟨some 0x08, some 0x04, some 0x02⟩ else ⟨none, none, none⟩)

/-- R264: the documented trace of `init` on a 16x2 display behind a PCF8574T at 0x27, for every bus that acknowledges. -/
def Obligations.InitTraceOfASixteenByTwoDisplay : Prop :=
  ∀ s : State, s.cfg = ⟨.genericPcf8574t, 0x27, ⟨2, 16, 0x00, 0x40, 0x10, 0x50⟩⟩ →
    s.sig = ⟨false, false, false, false, false, 0x0⟩ → Acks s 29 →
    ∃ t, exec .init s = .next t ∧ t.trace = s.trace ++
      (let w (b : Byte) : Event := .busWrite 0x27 [b]
       [w 0x34, w 0x30, .delay 5000, w 0x34, w 0x30, .delay 5000, w 0x34, w 0x30, .delay 150, w 0x24, w 0x20, .delay 39,
        w 0x24, w 0x20, w 0x84, w 0x80, .delay 39, w 0x04, w 0x00, w 0xC4, w 0xC0, .delay 39,
        w 0x04, w 0x00, w 0x64, w 0x60, .delay 39, w 0x04, w 0x00, w 0x14, w 0x10, .delay 2000,
        w 0x04, w 0x00, w 0x24, w 0x20, .delay 2000, w 0x28])

/-- R173, R234: an incompatible geometry is reported before any event, and such an instance never leaves `UNINIT`. -/
def Obligations.InitRejectsAnIncompatibleGeometry : Prop :=
  ∀ s : State, isCompatibleWith s.cfg.adapter s.cfg.geometry = false →
    exec .init s = .next (failed .unsupportedDisplayType { s with fsm := .uninit }) ∧
    ∀ t, step s = .next t → s.fsm = .uninit →
      t.fsm = .uninit ∧ isCompatibleWith t.cfg.adapter t.cfg.geometry = false

/-- R180: `init` ends in `READY` with `ACTIVE` 0 when it succeeds, and in `UNINIT` with `ACTIVE` kept when any step fails. -/
def Obligations.FailedInitLeavesUninit : Prop :=
  ∀ s : State, ∃ t, exec .init s = .next t ∧
    ((t.results = s.results ++ [.value .ok] ∧ t.fsm = .ready ∧ t.active = 0) ∨
     (∃ e, t.results = s.results ++ [.error e] ∧ t.fsm = .uninit ∧ t.active = s.active))

/-- R182: `clear` sends 0x01 to every controller, each followed by 2000 µs; nothing else changes. -/
def Obligations.ClearReachesEveryController : Prop :=
  ∀ s : State, s.fsm = .ready → Acks s (4 * count s) →
    exec .clear s = .next (returned .ok (eachController (commandSent 0x01 2000) s))

/-- R183: `home` sends 0x02 to every controller, then makes controller 0 the active one; when a command fails, `ACTIVE` is
unchanged. -/
def Obligations.HomeReachesEveryControllerAndResetsActive : Prop :=
  ∀ s : State, s.fsm = .ready →
    (Acks s (4 * count s) →
      exec .home s = .next (returned .ok { eachController (commandSent 0x02 2000) s with active := 0 })) ∧
    ∃ t, exec .home s = .next t ∧
      ((t.results = s.results ++ [.value .ok] ∧ t.active = 0) ∨
       (∃ e, t.results = s.results ++ [.error e] ∧ t.active = s.active))

/-- R186, R233: the row is checked before the column, and neither failure has any effect. -/
def Obligations.SetCursorChecksRowThenColumn : Prop :=
  ∀ (s : State) (col row : Byte), s.fsm = .ready →
    (s.cfg.geometry.rows.toNat ≤ row.toNat →
      exec (.setCursor col row) s = .next (failed (.rowOutOfRange row) s)) ∧
    (row.toNat < s.cfg.geometry.rows.toNat → s.cfg.geometry.cols.toNat ≤ col.toNat →
      exec (.setCursor col row) s = .next (failed (.columnOutOfRange col) s))

/-- R187, R188: the cursor goes to the row's controller, which becomes the active one even when the command fails, with
`0x80 | addr`, addr at most 0x7F. -/
def Obligations.SetCursorAddressesTheRowsController : Prop :=
  ∀ (s : State) (col row : Byte), s.fsm = .ready → geometryWellFormed s.cfg.adapter s.cfg.geometry = true →
    row.toNat < s.cfg.geometry.rows.toNat → col.toNat < s.cfg.geometry.cols.toNat →
    let g := s.cfg.geometry
    let offset : Nat → Byte := fun lr => if lr = 0 then g.off0 else if lr = 1 then g.off1 else if lr = 2 then g.off2 else g.off3
    let second : Bool := decide (s.cfg.adapter = .dualPcf8574t ∧ 2 ≤ row.toNat)
    let lr : Nat := if second then row.toNat - 2 else row.toNat
    (Acks s 4 → ∃ addr : Byte, addr.toNat = col.toNat + (offset lr).toNat ∧ addr.toNat ≤ 0x7F ∧
      exec (.setCursor col row) s = .next (returned .ok
        (commandSent (0x80 ||| addr) 39 (if second then 1 else 0) { s with active := if second then 1 else 0 }))) ∧
    ∃ t, exec (.setCursor col row) s = .next t ∧ t.active = (if second then 1 else 0)

/-- R190: `show_display` sets or clears D of every controller and sends each its control byte. -/
def Obligations.ShowDisplaySetsTheDisplayFlagEverywhere : Prop :=
  ∀ (s : State) (on : Bool), s.fsm = .ready → ModesHeld s → Acks s (4 * count s) →
    exec (.showDisplay on) s = .next (returned .ok
      (eachController (fun c u => controlSent ((control c u &&& 0xFB) ||| (if on then 0x04 else 0)) c u) s))

/-- R191, R192: the active controller's cursor or blink flag follows ON; the others have both cleared. -/
def Obligations.CursorFlagsFollowTheActiveController : Prop :=
  ∀ (s : State) (on : Bool), s.fsm = .ready → ModesHeld s → Acks s (4 * count s) →
    exec (.showCursor on) s = .next (returned .ok
      (eachController (fun c u => controlSent (cursorByte (fun v => (v &&& 0xFD) ||| (if on then 0x02 else 0)) c u) c u) s)) ∧
    exec (.blinkCursor on) s = .next (returned .ok
      (eachController (fun c u => controlSent (cursorByte (fun v => (v &&& 0xFE) ||| (if on then 0x01 else 0)) c u) c u) s))

/-- R193, R194: 0x18 to the left, 0x1C to the right, to every controller, 39 µs each; MODE is not touched. -/
def Obligations.ScrollsSendTheShiftCommand : Prop :=
  ∀ s : State, s.fsm = .ready → Acks s (4 * count s) →
    exec .scrollLeft s = .next (returned .ok (eachController (commandSent 0x18 39) s)) ∧
    exec .scrollRight s = .next (returned .ok (eachController (commandSent 0x1C 39) s))

/-- R195, R196, R197: the entry flags of every controller. -/
def Obligations.EntryModeOperationsUpdateEveryController : Prop :=
  ∀ (s : State) (on : Bool), s.fsm = .ready → ModesHeld s → Acks s (4 * count s) →
    exec .leftToRight s = .next (returned .ok
      (eachController (fun c u => entrySent (entry c u ||| 0x02) c u) s)) ∧
    exec .rightToLeft s = .next (returned .ok
      (eachController (fun c u => entrySent (entry c u &&& 0xFD) c u) s)) ∧
    exec (.autoscroll on) s = .next (returned .ok
      (eachController (fun c u => entrySent ((entry c u &&& 0xFE) ||| (if on then 0x01 else 0)) c u) s))

/-- R189: a mode byte is written before its command, and not undone when that command fails: controller 0's whatever the
bus answers, controller 1's whatever it answers once controller 0's four transactions are acknowledged (R185). -/
def Obligations.ModeIsWrittenBeforeTheCommand : Prop :=
  ∀ (s : State) (on : Bool), s.fsm = .ready → ModesHeld s →
    let flag (v : Byte) : Byte := if on then v else 0
    let cursor (v : Byte → Byte) (c : Byte) : Byte → Byte := if c.toNat = s.active.toNat then v else (· &&& 0xFC)
    WritesModeFirst s (.showDisplay on) (fun _ => mapControl fun v => (v &&& 0xFB) ||| flag 0x04) ∧
    WritesModeFirst s (.showCursor on) (fun c => mapControl (cursor (fun v => (v &&& 0xFD) ||| flag 0x02) c)) ∧
    WritesModeFirst s (.blinkCursor on) (fun c => mapControl (cursor (fun v => (v &&& 0xFE) ||| flag 0x01) c)) ∧
    WritesModeFirst s .leftToRight (fun _ => mapEntry fun v => v ||| 0x02) ∧
    WritesModeFirst s .rightToLeft (fun _ => mapEntry fun v => v &&& 0xFD) ∧
    WritesModeFirst s (.autoscroll on) (fun _ => mapEntry fun v => (v &&& 0xFE) ||| flag 0x01)

/-- R95, R198: the glyph's address and its eight rows, to every controller; a location of 8 or more is refused in either
state. -/
def Obligations.CreateCharSendsTheGlyphToEveryController : Prop :=
  ∀ (s : State) (loc : Byte) (g : Glyph),
    (s.fsm = .ready → loc.toNat < 8 → Acks s (36 * count s) →
      exec (.createChar loc g) s = .next (returned .ok (eachController (glyphSent loc g) s))) ∧
    (8 ≤ loc.toNat → exec (.createChar loc g) s = .refused .operandDoesNotFit)

/-- R199: each byte goes to the active controller as one data byte and 43 µs; an empty text does nothing. -/
def Obligations.PrintSendsEachByteToTheActiveController : Prop :=
  ∀ (s : State) (text : List Byte), s.fsm = .ready → s.active.toNat < count s → Acks s (4 * text.length) →
    exec (.print text) s = .next (returned .ok (text.foldl (dataSent (s.active.setWidth 8)) s))

/-- R202: one frame of the retained signals with the new backlight, no delay; the backlight stays set when it fails. -/
def Obligations.BacklightSendsOneFrame : Prop :=
  ∀ (s : State) (on : Bool), s.fsm = .ready →
    (∀ b, answerAt s 0 = .ok b → exec (.backlight on) s = .next (returned .ok (backlightSent on s))) ∧
    (∀ e, answerAt s 0 = .err e → exec (.backlight on) s = .next (failed (.busError e) (backlightSent on s)))

/-- R235: host reads on an adapter without reads return `ReadNotSupported`, with no event and no register write. -/
def Obligations.HostReadsReportReadNotSupported : Prop :=
  ∀ (s : State) (n : Nat), s.fsm = .ready → s.cfg.adapter ≠ .genericPcf8574t →
    exec (.readDeviceData n) s = .next (failed .readNotSupported s) ∧
    exec .readAddressCounter s = .next (failed .readNotSupported s)

/-! ### The table's other rows, run by themselves -/

/-- R71 to R74, R110, R117: a frame of the configured adapter stages its signals and goes on the bus as its table row lays its
bits out, the other signals kept (assumption 9); a frame of another adapter is refused (assumption 14). -/
def Obligations.FrameRowsPutTheirOwnBytesOnTheBus : Prop :=
  ∀ (s : State) (data : Nibble) (bl en0 en1 rw rs : Bool),
    let b (v : Bool) : Nat := if v then 1 else 0
    let w (bytes : List Byte) : List Event := [.busWrite s.cfg.busAddr bytes]
    (∀ (i : Instr) (a : Adapter), frameAdapter i = some a → s.cfg.adapter ≠ a →
      exec i s = .refused .frameOfOtherAdapter) ∧
    (Acks s 1 →
      (s.cfg.adapter = .genericPcf8574t →
        exec (.frameGeneric data bl en0 rw rs) s = .next (returned .ok
          (sent s (w [BitVec.ofNat 8 (16 * data.toNat + 8 * b bl + 4 * b en0 + 2 * b rw + b rs)]) 1
            { s.sig with data := data, bl := bl, en0 := en0, rw := rw, rs := rs }))) ∧
      (s.cfg.adapter = .adafruitMcp23008 →
        exec (.frameAdafruit bl data en0 rs) s = .next (returned .ok
          (sent s (w [0x09, BitVec.ofNat 8 (128 * b bl + 8 * data.toNat + 4 * b en0 + 2 * b rs)]) 1
            { s.sig with data := data, bl := bl, en0 := en0, rs := rs })) ∧
        exec .powerupAdafruit s = .next (returned .ok (sent s (w [0x00, 0x00]) 1 s.sig))) ∧
      (s.cfg.adapter = .dualPcf8574t →
        exec (.frameDual data bl en0 en1 rs) s = .next (returned .ok
          (sent s (w [BitVec.ofNat 8 (16 * data.toNat + 8 * b bl + 4 * b en0 + 2 * b en1 + b rs)]) 1
            { s.sig with data := data, bl := bl, en0 := en0, en1 := en1, rs := rs }))))

/-- R54, R75, R146: the one read transaction of a read strobe, in the sequence of R150; the nibble is bits 7:4 of the byte
(assumption 12). -/
def Obligations.ReadNibbleRowTakesTheHighHalf : Prop :=
  ∀ s : State, s.cfg.adapter = .genericPcf8574t → Acks s 7 →
    exec .readNibbleGeneric s =
      .next (returned (.nibble ((answerData (answerAt s 2) >>> 4).setWidth 4)) (pollSent s))

/-- R26, R79, R80, R82, R83, R85, R86, R184: the command rows that shadow no mode byte send their byte and its settle delay
(assumption 10). -/
def Obligations.CommandRowsSendTheirByte : Prop :=
  ∀ (s : State) (c : Byte) (right : Bool) (loc : BitVec 3) (addr : BitVec 7), c.toNat < count s → Acks s 4 →
    exec (.clearDisplay c) s = .next (returned .ok (commandSent 0x01 2000 c s)) ∧
    exec (.returnHome c) s = .next (returned .ok (commandSent 0x02 2000 c s)) ∧
    exec (.cursorDisplayShift c right) s = .next (returned .ok (commandSent (if right then 0x1C else 0x18) 39 c s)) ∧
    exec (.functionSet c) s = .next (returned .ok (commandSent 0x28 39 c s)) ∧
    exec (.setCgramAddr c loc) s = .next (returned .ok (commandSent (BitVec.ofNat 8 (0x40 + 8 * loc.toNat)) 39 c s)) ∧
    exec (.setDdramAddr c addr) s = .next (returned .ok (commandSent (BitVec.ofNat 8 (0x80 + addr.toNat)) 39 c s))

/-- R29, R81, R84, R189: the command rows that shadow a mode byte write it in `READY` and send it; in `UNINIT` they send their
byte and write no mode byte (assumption 10). -/
def Obligations.ModeCommandRowsShadowTheirFlags : Prop :=
  ∀ (s : State) (c : Byte) (x y z : Bool), c.toNat < count s → Acks s 4 →
    let b (v : Bool) : Nat := if v then 1 else 0
    let e : Byte := BitVec.ofNat 8 (2 * b x + b y)
    let d : Byte := BitVec.ofNat 8 (4 * b x + 2 * b y + b z)
    (s.fsm = .ready →
      exec (.entryModeSet c x y) s = .next (returned .ok (entrySent e c s)) ∧
      exec (.displayControl c x y z) s = .next (returned .ok (controlSent d c s))) ∧
    (s.fsm = .uninit →
      exec (.entryModeSet c x y) s = .next (returned .ok (commandSent (0x04 ||| e) 39 c s)) ∧
      exec (.displayControl c x y z) s = .next (returned .ok (commandSent (0x08 ||| d) 39 c s)))

/-- R77, R87, R88, R89: the handshake nibbles and the transfers (assumptions 11, 12). -/
def Obligations.NibbleAndTransferRowsComplete : Prop :=
  ∀ (s : State) (c b : Byte), c.toNat < count s →
    (Acks s 2 →
      exec (.handshakeNibble3 c) s = .next (returned .ok (nibbleSent false 0x3 c s)) ∧
      exec (.handshakeNibble2 c) s = .next (returned .ok (nibbleSent false 0x2 c s))) ∧
    (Acks s 4 → exec (.dataWrite c b) s = .next (returned .ok (dataSent c s b))) ∧
    (s.cfg.adapter = .genericPcf8574t → Acks s 8 →
      exec (.statusRead c) s = .next (returned (.byte (byteRead s 2)) (readSent false s)) ∧
      exec (.dataRead c) s = .next (returned (.byte (byteRead s 2)) (readSent true s)))

/-- R30, R145, R237: where the rows that run by themselves fail: a bad index, which stages the signals of the row's first
nibble and writes no mode byte (assumption 26), and a read on an adapter without reads. Assumptions 10 to 12. -/
def Obligations.RowsFailAsTheEngineDoes : Prop :=
  ∀ (s : State) (c b : Byte) (x y z : Bool) (loc : BitVec 3) (addr : BitVec 7),
    (count s ≤ c.toNat →
      ∀ (i : Instr) (rs : Bool) (nib : Nibble),
        (i, rs, nib) ∈ [(Instr.clearDisplay c, false, (0x0 : Nibble)), (.returnHome c, false, 0x0),
          (.entryModeSet c x y, false, 0x0), (.displayControl c x y z, false, 0x0), (.cursorDisplayShift c x, false, 0x1),
          (.functionSet c, false, 0x2), (.setCgramAddr c loc, false, BitVec.ofNat 4 (4 + loc.toNat / 2)),
          (.setDdramAddr c addr, false, BitVec.ofNat 4 (8 + addr.toNat / 16)), (.handshakeNibble3 c, false, 0x3),
          (.handshakeNibble2 c, false, 0x2), (.dataWrite c b, true, (b >>> 4).setWidth 4)] →
        exec i s = .next (failed (.badControllerId c) { s with sig := staged s.cfg.adapter rs nib s.sig })) ∧
    (s.cfg.adapter = .genericPcf8574t → count s ≤ c.toNat → ∀ rs : Bool,
      exec (if rs then .dataRead c else .statusRead c) s =
        .next (failed (.badControllerId c) { s with sig := { s.sig with rs := rs, rw := true, data := 0xF } })) ∧
    (s.cfg.adapter ≠ .genericPcf8574t →
      ∀ i, i ∈ [Instr.statusRead c, .dataRead c] →
        exec i s = .next { s with fault := some .unsupportedRead })

/-! ### Whole-machine rules -/

/-- R34, R100, R140: what every instruction leaves unchanged, whatever the bus answers. The configuration and the host's
requests are never written; the named instructions write no mode byte, `ACTIVE` or `FSM`. For the frame, command, nibble and
transfer rows (RETURN_HOME keeps `ACTIVE`) this is the model's reading of them, assumptions 9 to 12. -/
def Obligations.SignalInstructionsKeepModeActiveAndFsm : Prop :=
  ∀ (i : Instr) (s t : State), exec i s = .next t →
    t.cfg = s.cfg ∧ t.requests = s.requests ∧
    (touchesSignalsOnly i = true →
      t.mode0 = s.mode0 ∧ t.mode1 = s.mode1 ∧ t.active = s.active ∧ t.fsm = s.fsm)

/-- R183, R188, R190 to R197: the frames of the other host operations and of the rows that shadow a mode byte; for the
DISPLAY_CONTROL and ENTRY_MODE_SET rows this is the model's reading of them, assumption 10. -/
def Obligations.ModeInstructionsKeepEverythingElse : Prop :=
  ∀ (i : Instr) (s t : State), exec i s = .next t →
    ((i = .home ∨ ∃ col row, i = .setCursor col row) →
      t.mode0 = s.mode0 ∧ t.mode1 = s.mode1 ∧ t.fsm = s.fsm) ∧
    ((∃ on, i = .showCursor on ∨ i = .blinkCursor on ∨ i = .showDisplay on) ∨ (∃ c x y z, i = .displayControl c x y z) →
      t.mode0.function = s.mode0.function ∧ t.mode0.entry = s.mode0.entry ∧
      t.mode1.function = s.mode1.function ∧ t.mode1.entry = s.mode1.entry ∧ t.active = s.active ∧ t.fsm = s.fsm) ∧
    ((i = .leftToRight ∨ i = .rightToLeft ∨ (∃ on, i = .autoscroll on) ∨ ∃ c x y, i = .entryModeSet c x y) →
      t.mode0.function = s.mode0.function ∧ t.mode0.control = s.mode0.control ∧
      t.mode1.function = s.mode1.function ∧ t.mode1.control = s.mode1.control ∧ t.active = s.active ∧ t.fsm = s.fsm)

/-- R29, R246: `init` is the only instruction that changes `FSM`, and in `UNINIT` the only one that writes a mode byte. -/
def Obligations.OnlyInitChangesTheFsmOrFillsMode : Prop :=
  ∀ s t : State, step s = .next t →
    (t.fsm ≠ s.fsm ∨ (s.fsm = .uninit ∧ (t.mode0 ≠ s.mode0 ∨ t.mode1 ≠ s.mode1))) →
    ∃ p rest, s.fault = none ∧ s.job = none ∧ s.requests = p :: rest ∧ decode p = .ok .init

/-- R22: `SIG.BL` is carried by every other instruction, whatever the bus answers. -/
def Obligations.BacklightPersists : Prop :=
  ∀ (i : Instr) (s t : State), setsBacklight i = false → exec i s = .next t → t.sig.bl = s.sig.bl

/-- R36: an operation gives the host exactly one result when it ends, and none while it is in progress or when it faults: in
the step that starts it, and in every later step of a read in progress. -/
def Obligations.OneResultPerOperation : Prop :=
  (∀ (i : Instr) (s t : State), exec i s = .next t → s.job = none → s.fault = none →
    (∃ r, t.results = s.results ++ [r] ∧ t.job = none ∧ t.fault = none) ∨
    (t.results = s.results ∧ (t.job.isSome = true ∨ t.fault = some .unsupportedRead))) ∧
  (∀ s t : State, s.job.isSome = true → step s = .next t →
    (∃ r, t.results = s.results ++ [r] ∧ t.job = none) ∨ (t.results = s.results ∧ t.job.isSome = true))

/-- R242: the only stops of exec: the operations `UNINIT` refuses, an unfit glyph location, a frame of another adapter. -/
def Obligations.EveryOtherInstructionHasAnEffect : Prop :=
  ∀ (i : Instr) (s : State), i.wellFormed = true → (gated i = true → s.fsm = .ready) →
    (∀ a, frameAdapter i = some a → s.cfg.adapter = a) → ∃ t, exec i s = .next t

/-- R65, R236: the trace only grows: every event recorded stays, in its order. -/
def Obligations.TheTraceOnlyGrows : Prop :=
  ∀ s t : State, step s = .next t → ∃ evs, t.trace = s.trace ++ evs

/-- R10, R50, R51, R54, R63: every event a step adds is a transaction at `BUS_ADDR` with a frame of the adapter, or a delay of
R10. -/
def Obligations.EveryEventIsAllowed : Prop :=
  ∀ s t : State, BlockInv s → step s = .next t →
    ∃ evs, t.trace = s.trace ++ evs ∧ ∀ e ∈ evs, allowedEvent s.cfg e

/-- R52, R153, R232: a step records every transaction it makes, and ends its operation with `BusError` exactly at the first
one that fails: that one is recorded and is the last event, its payload is the bus's, all earlier transactions succeeded and
nothing stays in progress. Otherwise every transaction of the step succeeded. -/
def Obligations.AnOperationEndsAtTheFirstFailedTransaction : Prop :=
  ∀ s t : State, step s = .next t →
    ∃ n evs, t.txn = s.txn + n ∧ t.busScript = s.busScript.drop n ∧ t.trace = s.trace ++ evs ∧
      evs.countP isTransaction = n ∧
      ((Acks s n ∧ ∀ e, t.results ≠ s.results ++ [.error (.busError e)]) ∨
       (∃ e pre ev, 0 < n ∧ answerAt s (n - 1) = .err e ∧ Acks s (n - 1) ∧ t.job = none ∧
          t.results = s.results ++ [.error (.busError e)] ∧ evs = pre ++ [ev] ∧ isTransaction ev = true))

/-- The invariant holds of every new instance. -/
def Obligations.NewInstancesMeetTheInvariant : Prop :=
  ∀ (a : Adapter) (addr : Option Nat) (g : Geometry) (s : State), configure a addr g = .ok s → BlockInv s

/-- R23, R30 to R33, R173: every step keeps the invariant, from every state that meets it. -/
def Obligations.EveryStepKeepsTheInvariant : Prop :=
  ∀ s t : State, BlockInv s → step s = .next t → BlockInv t
end

