-- ==== Sys2Proof/Laws/State.lean ====
section
/-! SUPPORT. The fields of a state after each state update, and the bus's coming answers after one. -/

namespace Sys2Proof.Machine

@[simp] theorem record_cfg (e : Event) (s : State) : (record e s).cfg = s.cfg := rfl
@[simp] theorem record_sig (e : Event) (s : State) : (record e s).sig = s.sig := rfl
@[simp] theorem record_mode0 (e : Event) (s : State) : (record e s).mode0 = s.mode0 := rfl
@[simp] theorem record_mode1 (e : Event) (s : State) : (record e s).mode1 = s.mode1 := rfl
@[simp] theorem record_active (e : Event) (s : State) : (record e s).active = s.active := rfl
@[simp] theorem record_fsm (e : Event) (s : State) : (record e s).fsm = s.fsm := rfl
@[simp] theorem record_fault (e : Event) (s : State) : (record e s).fault = s.fault := rfl
@[simp] theorem record_job (e : Event) (s : State) : (record e s).job = s.job := rfl
@[simp] theorem record_trace (e : Event) (s : State) : (record e s).trace = s.trace ++ [e] := rfl
@[simp] theorem record_results (e : Event) (s : State) : (record e s).results = s.results := rfl
@[simp] theorem record_requests (e : Event) (s : State) : (record e s).requests = s.requests := rfl
@[simp] theorem record_busScript (e : Event) (s : State) : (record e s).busScript = s.busScript := rfl
@[simp] theorem record_txn (e : Event) (s : State) : (record e s).txn = s.txn := rfl

@[simp] theorem issue_cfg (e : Event) (s : State) : (issue e s).cfg = s.cfg := rfl
@[simp] theorem issue_sig (e : Event) (s : State) : (issue e s).sig = s.sig := rfl
@[simp] theorem issue_mode0 (e : Event) (s : State) : (issue e s).mode0 = s.mode0 := rfl
@[simp] theorem issue_mode1 (e : Event) (s : State) : (issue e s).mode1 = s.mode1 := rfl
@[simp] theorem issue_active (e : Event) (s : State) : (issue e s).active = s.active := rfl
@[simp] theorem issue_fsm (e : Event) (s : State) : (issue e s).fsm = s.fsm := rfl
@[simp] theorem issue_fault (e : Event) (s : State) : (issue e s).fault = s.fault := rfl
@[simp] theorem issue_job (e : Event) (s : State) : (issue e s).job = s.job := rfl
@[simp] theorem issue_trace (e : Event) (s : State) : (issue e s).trace = s.trace ++ [e] := rfl
@[simp] theorem issue_results (e : Event) (s : State) : (issue e s).results = s.results := rfl
@[simp] theorem issue_requests (e : Event) (s : State) : (issue e s).requests = s.requests := rfl
@[simp] theorem issue_busScript (e : Event) (s : State) : (issue e s).busScript = s.busScript.tail := rfl
@[simp] theorem issue_txn (e : Event) (s : State) : (issue e s).txn = s.txn + 1 := rfl

@[simp] theorem giveResult_cfg (r : OpResult) (s : State) : (giveResult r s).cfg = s.cfg := rfl
@[simp] theorem giveResult_sig (r : OpResult) (s : State) : (giveResult r s).sig = s.sig := rfl
@[simp] theorem giveResult_mode0 (r : OpResult) (s : State) : (giveResult r s).mode0 = s.mode0 := rfl
@[simp] theorem giveResult_mode1 (r : OpResult) (s : State) : (giveResult r s).mode1 = s.mode1 := rfl
@[simp] theorem giveResult_active (r : OpResult) (s : State) : (giveResult r s).active = s.active := rfl
@[simp] theorem giveResult_fsm (r : OpResult) (s : State) : (giveResult r s).fsm = s.fsm := rfl
@[simp] theorem giveResult_fault (r : OpResult) (s : State) : (giveResult r s).fault = s.fault := rfl
@[simp] theorem giveResult_job (r : OpResult) (s : State) : (giveResult r s).job = s.job := rfl
@[simp] theorem giveResult_trace (r : OpResult) (s : State) : (giveResult r s).trace = s.trace := rfl
@[simp] theorem giveResult_results (r : OpResult) (s : State) : (giveResult r s).results = s.results ++ [r] := rfl
@[simp] theorem giveResult_requests (r : OpResult) (s : State) : (giveResult r s).requests = s.requests := rfl
@[simp] theorem giveResult_busScript (r : OpResult) (s : State) : (giveResult r s).busScript = s.busScript := rfl
@[simp] theorem giveResult_txn (r : OpResult) (s : State) : (giveResult r s).txn = s.txn := rfl

@[simp] theorem finish_cfg (r : OpResult) (s : State) : (finish r s).cfg = s.cfg := rfl
@[simp] theorem finish_sig (r : OpResult) (s : State) : (finish r s).sig = s.sig := rfl
@[simp] theorem finish_mode0 (r : OpResult) (s : State) : (finish r s).mode0 = s.mode0 := rfl
@[simp] theorem finish_mode1 (r : OpResult) (s : State) : (finish r s).mode1 = s.mode1 := rfl
@[simp] theorem finish_active (r : OpResult) (s : State) : (finish r s).active = s.active := rfl
@[simp] theorem finish_fsm (r : OpResult) (s : State) : (finish r s).fsm = s.fsm := rfl
@[simp] theorem finish_fault (r : OpResult) (s : State) : (finish r s).fault = s.fault := rfl
@[simp] theorem finish_job (r : OpResult) (s : State) : (finish r s).job = none := rfl
@[simp] theorem finish_trace (r : OpResult) (s : State) : (finish r s).trace = s.trace := rfl
@[simp] theorem finish_results (r : OpResult) (s : State) : (finish r s).results = s.results ++ [r] := rfl
@[simp] theorem finish_requests (r : OpResult) (s : State) : (finish r s).requests = s.requests := rfl
@[simp] theorem finish_busScript (r : OpResult) (s : State) : (finish r s).busScript = s.busScript := rfl
@[simp] theorem finish_txn (r : OpResult) (s : State) : (finish r s).txn = s.txn := rfl

@[simp] theorem nextAnswer_record (e : Event) (s : State) : nextAnswer (record e s) = nextAnswer s := rfl

theorem nextAnswer_eq_answerAt (s : State) : nextAnswer s = answerAt s 0 := by
  unfold nextAnswer answerAt
  cases s.busScript <;> simp

@[simp] theorem answerAt_issue (e : Event) (s : State) (k : Nat) :
    answerAt (issue e s) k = answerAt s (k + 1) := by
  simp only [answerAt, issue_busScript, issue_txn]
  cases s.busScript <;> simp [Nat.add_assoc, Nat.add_comm 1]

@[simp] theorem answerAt_record (e : Event) (s : State) (k : Nat) :
    answerAt (record e s) k = answerAt s k := rfl

/-- The coming answers depend on the bus fields only. -/
theorem answerAt_congr {s t : State} (hb : t.busScript = s.busScript) (ht : t.txn = s.txn) (k : Nat) :
    answerAt t k = answerAt s k := by
  simp [answerAt, hb, ht]

theorem Acks.mono {s : State} {m n : Nat} (h : Acks s n) (hm : m ≤ n) : Acks s m :=
  fun k hk => h k (by omega)

theorem Acks.issue {s : State} {n : Nat} (h : Acks s (n + 1)) (e : Event) : Acks (issue e s) n :=
  fun k hk => by simpa using h (k + 1) (by omega)

theorem acks_congr {s t : State} (hb : t.busScript = s.busScript) (ht : t.txn = s.txn) (n : Nat) :
    Acks t n ↔ Acks s n := by
  simp [Acks, answerAt_congr hb ht]

/-- With an acknowledged next transaction, the next answer is a success. -/
theorem Acks.next {s : State} {n : Nat} (h : Acks s (n + 1)) : ∃ b, nextAnswer s = .ok b := by
  have h0 := h 0 (by omega)
  rw [nextAnswer_eq_answerAt]
  cases hb : answerAt s 0 with
  | ok b => exact ⟨b, rfl⟩
  | err e => simp [hb, answerOk] at h0

end Sys2Proof.Machine
end

