-- ==== Sys2Proof/Laws/Ops.lean ====
section
/-! SUPPORT. What the shared operations can do: sequencing, the primitives, the engine's sequences on a bus that
acknowledges, and `Keeps`, a relation carried through a sequence. -/

namespace Sys2Proof.Machine

variable {α β : Type}

/-! ### Sequencing -/

@[simp] theorem opReturn_apply (a : α) (s : State) : opReturn a s = (.ok a, s) := rfl
@[simp] theorem raise_apply (e : OpError) (s : State) : (raise e : Op α) s = (.error e, s) := rfl
@[simp] theorem update_apply (f : State → State) (s : State) : update f s = (.ok (), f s) := rfl
@[simp] theorem delay_apply (t : Nat) (s : State) : delay t s = (.ok (), record (.delay t) s) := rfl
@[simp] theorem seqOps_nil (s : State) : seqOps [] s = (.ok (), s) := rfl

theorem opBind_ok {m : Op α} {k : α → Op β} {s s' : State} {a : α} (h : m s = (.ok a, s')) :
    opBind m k s = k a s' := by
  simp [opBind, h]

theorem opBind_error {m : Op α} {k : α → Op β} {s s' : State} {e : OpError} (h : m s = (.error e, s')) :
    opBind m k s = (.error e, s') := by
  simp [opBind, h]

theorem seqOps_cons_ok {op : Op Unit} {rest : List (Op Unit)} {s s' : State} (h : op s = (.ok (), s')) :
    seqOps (op :: rest) s = seqOps rest s' := opBind_ok h

theorem seqOps_cons_error {op : Op Unit} {rest : List (Op Unit)} {s s' : State} {e : OpError}
    (h : op s = (.error e, s')) : seqOps (op :: rest) s = (.error e, s') := opBind_error h

/-- Register-only steps never stop a sequence. -/
@[simp] theorem seqOps_cons_update (f : State → State) (rest : List (Op Unit)) (s : State) :
    seqOps (update f :: rest) s = seqOps rest (f s) := rfl

@[simp] theorem seqOps_cons_updateSig (f : SignalState → SignalState) (rest : List (Op Unit)) (s : State) :
    seqOps (updateSig f :: rest) s = seqOps rest { s with sig := f s.sig } := rfl

@[simp] theorem seqOps_cons_setRs (v : Bool) (rest : List (Op Unit)) (s : State) :
    seqOps (setRs v :: rest) s = seqOps rest { s with sig := { s.sig with rs := v } } := rfl

@[simp] theorem seqOps_cons_setBacklight (v : Bool) (rest : List (Op Unit)) (s : State) :
    seqOps (setBacklight v :: rest) s = seqOps rest { s with sig := { s.sig with bl := v } } := rfl

@[simp] theorem seqOps_cons_setData (v : Nibble) (rest : List (Op Unit)) (s : State) :
    seqOps (setData v :: rest) s = seqOps rest { s with sig := { s.sig with data := v } } := rfl

@[simp] theorem seqOps_cons_setRw (v : Bool) (rest : List (Op Unit)) (s : State) :
    seqOps (setRw v :: rest) s =
      seqOps rest { s with sig := { s.sig with rw := if hasRwOf s.cfg.adapter then v else s.sig.rw } } := by
  by_cases h : hasRwOf s.cfg.adapter = true <;> simp [setRw, h]

@[simp] theorem seqOps_cons_delay (t : Nat) (rest : List (Op Unit)) (s : State) :
    seqOps (delay t :: rest) s = seqOps rest (record (.delay t) s) := rfl

theorem seqOps_cons_setEnable {c : Byte} {s : State} (h : c.toNat < controllerCountOf s.cfg.adapter) (v : Bool)
    (rest : List (Op Unit)) :
    seqOps (setEnable v c :: rest) s = seqOps rest { s with sig := withEnable v c s.sig } := by
  simp [seqOps, opBind, setEnable, h, updateSig]

theorem seqOps_cons_setEnable_bad {c : Byte} {s : State} (h : controllerCountOf s.cfg.adapter ≤ c.toNat) (v : Bool)
    (rest : List (Op Unit)) :
    seqOps (setEnable v c :: rest) s = (.error (.badControllerId c), s) := by
  simp [seqOps, opBind, setEnable, Nat.not_lt.mpr h]

/-- R189: in `READY` the mode byte is written. -/
theorem whileReady_ready {s : State} (h : s.fsm = .ready) (op : Op Unit) : whileReady op s = op s := by
  simp [whileReady, h]

/-- R29: in `UNINIT` it is not. -/
theorem whileReady_uninit {s : State} (h : s.fsm = .uninit) (op : Op Unit) : whileReady op s = (.ok (), s) := by
  simp [whileReady, h]

theorem seqOps_append (l r : List (Op Unit)) (s : State) :
    seqOps (l ++ r) s = opBind (seqOps l) (fun _ => seqOps r) s := by
  induction l generalizing s with
  | nil => rfl
  | cons op l ih =>
    simp only [List.cons_append, seqOps, opBind]
    cases op s with
    | mk r' s' => cases r' <;> simp [ih, opBind]

/-! ### The bus -/

theorem memWrite_ok {s : State} {b : Byte} (h : nextAnswer s = .ok b) (bytes : List Byte) :
    memWrite bytes s = (.ok (), issue (.busWrite s.cfg.busAddr bytes) s) := by
  simp [memWrite, h]

theorem memWrite_err {s : State} {e : Nat} (h : nextAnswer s = .err e) (bytes : List Byte) :
    memWrite bytes s = (.error (.busError e), issue (.busWrite s.cfg.busAddr bytes) s) := by
  simp [memWrite, h]

theorem memRead_ok {s : State} {b : Byte} (h : nextAnswer s = .ok b) :
    memRead s = (.ok b, issue (.busRead s.cfg.busAddr) s) := by
  simp [memRead, h]

theorem memRead_err {s : State} {e : Nat} (h : nextAnswer s = .err e) :
    memRead s = (.error (.busError e), issue (.busRead s.cfg.busAddr) s) := by
  simp [memRead, h]

/-- R110 on a bus that acknowledges. -/
theorem writeStateToBus_acked {s : State} {n : Nat} (h : Acks s (n + 1)) :
    writeStateToBus s = (.ok (), issue (.busWrite s.cfg.busAddr (encodeFrame s.cfg.adapter s.sig)) s) := by
  obtain ⟨b, hb⟩ := h.next
  exact memWrite_ok hb _

theorem seqOps_cons_writeStateToBus {s : State} {n : Nat} (h : Acks s (n + 1)) (rest : List (Op Unit)) :
    seqOps (writeStateToBus :: rest) s =
      seqOps rest (issue (.busWrite s.cfg.busAddr (encodeFrame s.cfg.adapter s.sig)) s) :=
  seqOps_cons_ok (writeStateToBus_acked h)

/-- The byte a successful read returns is the answer's. -/
theorem memRead_acked {s : State} {n : Nat} (h : Acks s (n + 1)) :
    memRead s = (.ok (answerData (answerAt s 0)), issue (.busRead s.cfg.busAddr) s) := by
  obtain ⟨b, hb⟩ := h.next
  rw [memRead_ok hb, ← nextAnswer_eq_answerAt, hb, answerData]

/-! ### `Keeps`: a relation between the states before and after that every step of an operation respects -/

/-- Whatever the bus answers, the operation relates the state before to the state after by R. -/
def Keeps (R : State → State → Prop) (op : Op α) : Prop := ∀ s, R s (op s).2

/-- A relation that can be carried through a sequence. -/
structure Carried (R : State → State → Prop) : Prop where
  refl : ∀ s, R s s
  trans : ∀ {s t u}, R s t → R t u → R s u

theorem Carried.opReturn {R : State → State → Prop} (h : Carried R) (a : α) : Keeps R (opReturn a) :=
  fun s => h.refl s

theorem Carried.raise {R : State → State → Prop} (h : Carried R) (e : OpError) : Keeps R (raise e : Op α) :=
  fun s => h.refl s

theorem Carried.opBind {R : State → State → Prop} (h : Carried R) {m : Op α} {k : α → Op β}
    (hm : Keeps R m) (hk : ∀ a, Keeps R (k a)) : Keeps R (opBind m k) := by
  intro s
  have h1 := hm s
  unfold Machine.opBind
  rcases hms : m s with ⟨r, s'⟩
  rw [hms] at h1
  cases r with
  | ok a => exact h.trans h1 (hk a s')
  | error e => exact h1

theorem Carried.seqOps {R : State → State → Prop} (h : Carried R) {l : List (Op Unit)}
    (hl : ∀ op ∈ l, Keeps R op) : Keeps R (seqOps l) := by
  induction l with
  | nil => exact h.opReturn ()
  | cons op l ih =>
    exact h.opBind (hl op (by simp)) fun _ => ih fun o ho => hl o (by simp [ho])

theorem Carried.fanOut {R : State → State → Prop} (h : Carried R) {body : Byte → Op Unit}
    (hb : ∀ c, Keeps R (body c)) : Keeps R (fanOut body) := by
  intro s
  refine h.seqOps (l := (controllersOf s.cfg.adapter).map body) ?_ s
  intro op hop
  obtain ⟨c, -, rfl⟩ := List.mem_map.mp hop
  exact hb c

end Sys2Proof.Machine
end

