-- ==== Sys2Proof/Laws/Engine.lean ====
section
/-! SUPPORT. The engine's sequences on a bus that acknowledges (spec 41_protocol_engine.md R141 to R150), as one state
update each, and where they fail before any event. -/

namespace Sys2Proof.Machine

/-- n acknowledged transactions with the events `evs`, leaving the signals `g`. -/
def after (s : State) (evs : List Event) (n : Nat) (g : SignalState) : State :=
  { s with trace := s.trace ++ evs, sig := g, busScript := s.busScript.drop n, txn := s.txn + n }

/-- The write event of a frame. -/
def frameEvent (s : State) (g : SignalState) : Event :=
  .busWrite s.cfg.busAddr (encodeFrame s.cfg.adapter g)

/-- The signals a nibble write stages (R141). -/
def stagedSig (a : Adapter) (rs : Bool) (nib : Nibble) (g : SignalState) : SignalState :=
  { g with rs := rs, rw := (!hasRwOf a) && g.rw, data := nib }

/-- The signals of a nibble write's frames. -/
def strobeSig (a : Adapter) (rs : Bool) (nib : Nibble) (c : Byte) (en : Bool) (g : SignalState) : SignalState :=
  withEnable en c (stagedSig a rs nib g)

@[simp] theorem after_cfg (s : State) (evs n g) : (after s evs n g).cfg = s.cfg := rfl
@[simp] theorem after_sig (s : State) (evs n g) : (after s evs n g).sig = g := rfl
@[simp] theorem after_zero (s : State) : after s [] 0 s.sig = s := by simp [after]

theorem acks_after {s : State} {m n : Nat} (h : Acks s (m + n)) (evs : List Event) (g : SignalState) :
    Acks (after s evs m g) n := by
  intro k hk
  have := h (m + k) (by omega)
  simpa [answerAt, after, List.getElem?_drop, Nat.add_assoc] using this

theorem answerAt_after (s : State) (evs : List Event) (m : Nat) (g : SignalState) (k : Nat) :
    answerAt (after s evs m g) k = answerAt s (m + k) := by
  simp [answerAt, after, List.getElem?_drop, Nat.add_assoc]

theorem after_after (s : State) (e₁ e₂ : List Event) (m n : Nat) (g₁ g₂ : SignalState) :
    after (after s e₁ m g₁) e₂ n g₂ = after s (e₁ ++ e₂) (m + n) g₂ := by
  simp [after, Nat.add_assoc, List.append_assoc]

theorem issue_eq_after (s : State) (e : Event) (g : SignalState) :
    issue e { s with sig := g } = after s [e] 1 g := by
  simp [issue, record, after]

/-- The signals after a change of EN[c], field by field. -/
theorem withEnable_eq (v : Bool) (c : Byte) (g : SignalState) :
    withEnable v c g = ⟨g.rs, g.rw, if c = 0 then v else g.en0, if c ≠ 0 ∧ c = 1 then v else g.en1, g.bl, g.data⟩ := by
  unfold withEnable
  split_ifs <;> simp_all

@[simp] theorem withEnable_withEnable (v w : Bool) (c : Byte) (g : SignalState) :
    withEnable v c (withEnable w c g) = withEnable v c g := by
  simp only [withEnable_eq]
  split_ifs <;> rfl

@[simp] theorem withEnable_strobeSig (a : Adapter) (rs : Bool) (nib : Nibble) (c : Byte) (v w : Bool)
    (g : SignalState) : withEnable v c (strobeSig a rs nib c w g) = strobeSig a rs nib c v g :=
  withEnable_withEnable _ _ _ _

@[simp] theorem stagedSig_strobeSig (a : Adapter) (rs rs' : Bool) (nib nib' : Nibble) (c : Byte) (v : Bool)
    (g : SignalState) :
    stagedSig a rs' nib' (strobeSig a rs nib c v g) = withEnable v c (stagedSig a rs' nib' g) := by
  simp only [strobeSig, stagedSig, withEnable_eq]
  cases hasRwOf a <;> simp

/-- What a nibble write stages before its index check (R141). -/
theorem seqOps_staged (s : State) (rs : Bool) (nib : Nibble) (rest : List (Op Unit)) :
    seqOps (setRs rs :: setRw false :: setData nib :: rest) s =
      seqOps rest { s with sig := stagedSig s.cfg.adapter rs nib s.sig } := by
  simp only [seqOps_cons_setRs, seqOps_cons_setRw, seqOps_cons_setData, stagedSig]
  congr 1
  cases hasRwOf s.cfg.adapter <;> simp

/-- One write of the staged frame, on a bus that acknowledges. -/
theorem seqOps_write_after {s : State} {g : SignalState} {n : Nat} (h : Acks s (n + 1)) (rest : List (Op Unit)) :
    seqOps (writeStateToBus :: rest) { s with sig := g } = seqOps rest (after s [frameEvent s g] 1 g) := by
  rw [seqOps_cons_writeStateToBus (s := { s with sig := g }) (n := n) h, issue_eq_after]
  rfl

/-- R141 on a bus that acknowledges. -/
theorem writeNibble_acked {s : State} {c : Byte} (hc : c.toNat < controllerCountOf s.cfg.adapter) (h : Acks s 2)
    (rs : Bool) (nib : Nibble) :
    writeNibble rs nib c s = (.ok (), after s
      [frameEvent s (strobeSig s.cfg.adapter rs nib c true s.sig),
        frameEvent s (strobeSig s.cfg.adapter rs nib c false s.sig)] 2
      (strobeSig s.cfg.adapter rs nib c false s.sig)) := by
  unfold writeNibble
  rw [seqOps_staged, seqOps_cons_setEnable (s := { s with sig := stagedSig s.cfg.adapter rs nib s.sig }) hc]
  have h1 : Acks (after s [frameEvent s (strobeSig s.cfg.adapter rs nib c true s.sig)] 1
      (strobeSig s.cfg.adapter rs nib c true s.sig)) (0 + 1) := acks_after h _ _
  rw [show withEnable true c (stagedSig s.cfg.adapter rs nib s.sig) = strobeSig s.cfg.adapter rs nib c true s.sig
      from rfl, seqOps_write_after (n := 1) h, seqOps_cons_setEnable (s := after s _ _ _) hc, after_sig,
    withEnable_strobeSig, seqOps_write_after (n := 0) h1, after_after, seqOps_nil]
  rfl

/-- R141, R237: a bad index, before any event. -/
theorem writeNibble_bad {s : State} {c : Byte} (hc : controllerCountOf s.cfg.adapter ≤ c.toNat) (rs : Bool)
    (nib : Nibble) :
    writeNibble rs nib c s =
      (.error (.badControllerId c), { s with sig := stagedSig s.cfg.adapter rs nib s.sig }) := by
  unfold writeNibble
  rw [seqOps_staged, seqOps_cons_setEnable_bad (s := { s with sig := stagedSig s.cfg.adapter rs nib s.sig }) hc]

/-- R142, R143 on a bus that acknowledges: each frame from the signals at entry. -/
theorem writeByte_acked {s : State} {c : Byte} (hc : c.toNat < controllerCountOf s.cfg.adapter) (h : Acks s 4)
    (rs : Bool) (b : Byte) :
    writeByte rs b c s = (.ok (), after s
      [frameEvent s (strobeSig s.cfg.adapter rs (highNibble b) c true s.sig),
        frameEvent s (strobeSig s.cfg.adapter rs (highNibble b) c false s.sig),
        frameEvent s (strobeSig s.cfg.adapter rs (lowNibble b) c true s.sig),
        frameEvent s (strobeSig s.cfg.adapter rs (lowNibble b) c false s.sig)] 4
      (strobeSig s.cfg.adapter rs (lowNibble b) c false s.sig)) := by
  unfold writeByte
  have h2 := acks_after (m := 2) (n := 2) h
  have key : ∀ v, strobeSig s.cfg.adapter rs (lowNibble b) c v
      (strobeSig s.cfg.adapter rs (highNibble b) c false s.sig) =
      strobeSig s.cfg.adapter rs (lowNibble b) c v s.sig := by
    intro v
    conv_lhs => rw [strobeSig, stagedSig_strobeSig, withEnable_withEnable]
    rfl
  rw [seqOps_cons_ok (writeNibble_acked hc (h.mono (by omega)) rs _),
    seqOps_cons_ok (writeNibble_acked (by simpa using hc) (h2 _ _) rs _), seqOps_nil, after_after]
  simp [key, frameEvent]

theorem writeByte_bad {s : State} {c : Byte} (hc : controllerCountOf s.cfg.adapter ≤ c.toNat) (rs : Bool) (b : Byte) :
    writeByte rs b c s =
      (.error (.badControllerId c), { s with sig := stagedSig s.cfg.adapter rs (highNibble b) s.sig }) := by
  unfold writeByte
  rw [seqOps_cons_error (writeNibble_bad hc rs _)]

/-- R144 on a bus that acknowledges. -/
theorem command_acked {s : State} {c : Byte} (hc : c.toNat < controllerCountOf s.cfg.adapter) (h : Acks s 4)
    (b : Byte) (t : Nat) :
    command c b t s = (.ok (), record (.delay t) (writeByte false b c s).2) := by
  rw [command, seqOps_cons_ok (writeByte_acked hc h false b), writeByte_acked hc h false b]
  simp

theorem command_bad {s : State} {c : Byte} (hc : controllerCountOf s.cfg.adapter ≤ c.toNat) (b : Byte) (t : Nat) :
    command c b t s =
      (.error (.badControllerId c), { s with sig := stagedSig s.cfg.adapter false (highNibble b) s.sig }) := by
  rw [command, seqOps_cons_error (writeByte_bad hc false b)]

/-- R144 on a bus that acknowledges. -/
theorem dataByte_acked {s : State} {c : Byte} (hc : c.toNat < controllerCountOf s.cfg.adapter) (h : Acks s 4)
    (b : Byte) :
    dataByte c b s = (.ok (), record (.delay tChar) (writeByte true b c s).2) := by
  rw [dataByte, seqOps_cons_ok (writeByte_acked hc h true b), writeByte_acked hc h true b]
  simp

end Sys2Proof.Machine
end

