-- ==== Sys2Proof/Laws/Flags.lean ====
section
/-! SUPPORT. The mode flags as masks, the command bytes as numbers, and the halves of a byte (spec 10_state.md R26 to R28,
30_encoding.md R75 to R88). -/

namespace Sys2Proof.Machine

theorem withDisplay_eq (on : Bool) (v : Byte) : withDisplay on v = (v &&& 0xFB) ||| (if on then 0x04 else 0) := by
  cases on <;> revert v <;> decide

theorem withCursor_eq (on : Bool) (v : Byte) : withCursor on v = (v &&& 0xFD) ||| (if on then 0x02 else 0) := by
  cases on <;> revert v <;> decide

theorem withBlink_eq (on : Bool) (v : Byte) : withBlink on v = (v &&& 0xFE) ||| (if on then 0x01 else 0) := by
  cases on <;> revert v <;> decide

theorem withoutCursor_eq (v : Byte) : withoutCursor v = v &&& 0xFC := by revert v; decide

theorem withRightToLeft_eq (v : Byte) : withRightToLeft v = v &&& 0xFD := by revert v; decide

theorem withAutoscroll_eq (on : Bool) (v : Byte) :
    withAutoscroll on v = (v &&& 0xFE) ||| (if on then 0x01 else 0) := by
  cases on <;> revert v <;> decide

theorem initFunction_eq : initFunction = 0x08 := by decide
theorem initControl_eq : initControl = 0x04 := by decide
theorem initEntry_eq : initEntry = 0x02 := by decide

theorem highNibble_eq (b : Byte) : highNibble b = (b >>> 4).setWidth 4 := by revert b; decide
theorem lowNibble_eq (b : Byte) : lowNibble b = b.setWidth 4 := by revert b; decide
theorem nibbleOf_eq (b : Byte) : nibbleOf b = (b >>> 4).setWidth 4 := by revert b; decide
theorem busyFlag_nibbleOf (b : Byte) : busyFlag (nibbleOf b) = b.getLsbD 7 := by simp [busyFlag, nibbleOf]

/-- R148: the byte of the high halves of two reads. -/
theorem joinNibbles_nibbleOf (x y : Byte) :
    joinNibbles (nibbleOf x) (nibbleOf y) = (x &&& 0xF0) ||| (y >>> 4) := by
  apply BitVec.eq_of_getLsbD_eq
  intro i hi
  have : i < 8 := hi
  simp only [joinNibbles, nibbleOf, BitVec.getLsbD_append, BitVec.getLsbD_or, BitVec.getLsbD_and,
    BitVec.getLsbD_ushiftRight, BitVec.getLsbD_extractLsb']
  interval_cases i <;> simp

theorem controllerByte_eq_iff (c : Byte) (a : BitVec 1) : c = controllerByte a ↔ c.toNat = a.toNat := by
  rw [← BitVec.toNat_inj, controllerByte, BitVec.toNat_setWidth]
  have := a.isLt
  rw [Nat.mod_eq_of_lt (by omega)]

end Sys2Proof.Machine
end

