-- ==== Sys2Proof/Laws/Acked.lean ====
section
/-! SUPPORT. Sequences on a bus that acknowledges, as a composition of state updates: each operation is one function of the
state that uses up a known number of answers, and a sequence or a fan-out composes them. -/

namespace Sys2Proof.Machine

/-- f keeps the configuration and uses up n of the bus's answers. -/
def Uses (f : State → State) (n : Nat) : Prop :=
  ∀ s, (f s).cfg = s.cfg ∧ (f s).busScript = s.busScript.drop n ∧ (f s).txn = s.txn + n

/-- On adapter a, if the bus acknowledges n transactions, the operation is f and returns ok. -/
def AckedBy (a : Adapter) (op : Op Unit) (f : State → State) (n : Nat) : Prop :=
  Uses f n ∧ ∀ s, s.cfg.adapter = a → Acks s n → op s = (.ok (), f s)

theorem Uses.acks {f : State → State} {m n : Nat} (h : Uses f m) {s : State} (ha : Acks s (m + n)) : Acks (f s) n := by
  intro k hk
  have := ha (m + k) (by omega)
  simpa [answerAt, (h s).2.1, (h s).2.2, List.getElem?_drop, Nat.add_assoc] using this

theorem Uses.comp {f g : State → State} {m n : Nat} (h : Uses f m) (h' : Uses g n) : Uses (fun s => g (f s)) (m + n) := by
  intro s
  obtain ⟨a1, a2, a3⟩ := h s
  obtain ⟨b1, b2, b3⟩ := h' (f s)
  exact ⟨b1.trans a1, by rw [b2, a2, List.drop_drop], by rw [b3, a3, Nat.add_assoc]⟩

theorem uses_id : Uses (fun s => s) 0 := fun _ => ⟨rfl, rfl, rfl⟩

theorem uses_setMode (c : Byte) (f : ModeBytes → ModeBytes) : Uses (setMode c f) 0 := by
  intro s
  unfold setMode
  split_ifs <;> exact ⟨rfl, rfl, rfl⟩

namespace AckedBy

variable {a : Adapter} {op : Op Unit} {f g : State → State} {m n : Nat} {rest : List (Op Unit)}

theorem nil : AckedBy a (seqOps []) (fun s => s) 0 := ⟨uses_id, fun _ _ _ => rfl⟩

theorem cons (h : AckedBy a op f n) (h' : AckedBy a (seqOps rest) g m) :
    AckedBy a (seqOps (op :: rest)) (fun s => g (f s)) (n + m) := by
  refine ⟨h.1.comp h'.1, fun s hs ha => ?_⟩
  rw [seqOps_cons_ok (h.2 s hs (ha.mono (by omega)))]
  exact h'.2 _ (by rw [(h.1 s).1, hs]) (h.1.acks ha)

/-- The same operation with another form of its update. -/
theorem congr (h : AckedBy a op f n) (hg : Uses g m) (he : ∀ s, s.cfg.adapter = a → f s = g s) (hn : n = m) :
    AckedBy a op g m := by
  subst hn
  exact ⟨hg, fun s hs ha => by rw [h.2 s hs ha, he s hs]⟩

theorem update (h : Uses f 0) : AckedBy a (Machine.update f) f 0 := ⟨h, fun _ _ _ => rfl⟩

theorem delay (t : Nat) : AckedBy a (Machine.delay t) (record (.delay t)) 0 := update fun _ => ⟨rfl, rfl, rfl⟩

/-- A fan-out on an adapter with one controller or two (R185). -/
theorem fanOut {body : Byte → Op Unit} {f : Byte → State → State}
    (h : ∀ c : Byte, c.toNat < controllerCountOf a → AckedBy a (body c) (f c) n) :
    AckedBy a (Machine.fanOut body)
      (fun s => if controllerCountOf a = 2 then f 1 (f 0 s) else f 0 s) (n * controllerCountOf a) := by
  have key : AckedBy a (seqOps ((controllersOf a).map body))
      (fun s => if controllerCountOf a = 2 then f 1 (f 0 s) else f 0 s) (n * controllerCountOf a) := by
    cases a
    · exact (cons (h 0 (by decide)) nil).congr (by simpa [controllerCountOf] using (h 0 (by decide)).1)
        (fun _ _ => rfl) (by simp [controllerCountOf])
    · exact (cons (h 0 (by decide)) nil).congr (by simpa [controllerCountOf] using (h 0 (by decide)).1)
        (fun _ _ => rfl) (by simp [controllerCountOf])
    · exact (cons (h 0 (by decide)) (cons (h 1 (by decide)) nil)).congr
        (by simpa [controllerCountOf, Nat.mul_two] using (h 0 (by decide)).1.comp (h 1 (by decide)).1)
        (fun _ _ => rfl) (by simp [controllerCountOf, Nat.mul_two])
  refine ⟨key.1, fun s hs ha => ?_⟩
  unfold Machine.fanOut
  rw [hs]
  exact key.2 s hs ha

theorem writeNibble {c : Byte} (hc : c.toNat < controllerCountOf a) (rs : Bool) (nib : Nibble) :
    AckedBy a (Machine.writeNibble rs nib c) (fun s => after s
      [frameEvent s (strobeSig s.cfg.adapter rs nib c true s.sig),
        frameEvent s (strobeSig s.cfg.adapter rs nib c false s.sig)] 2
      (strobeSig s.cfg.adapter rs nib c false s.sig)) 2 :=
  ⟨fun _ => ⟨rfl, rfl, rfl⟩, fun _ hs ha => writeNibble_acked (by rw [hs]; exact hc) ha rs nib⟩

theorem writeByte {c : Byte} (hc : c.toNat < controllerCountOf a) (rs : Bool) (b : Byte) :
    AckedBy a (Machine.writeByte rs b c) (fun s => after s
      [frameEvent s (strobeSig s.cfg.adapter rs (highNibble b) c true s.sig),
        frameEvent s (strobeSig s.cfg.adapter rs (highNibble b) c false s.sig),
        frameEvent s (strobeSig s.cfg.adapter rs (lowNibble b) c true s.sig),
        frameEvent s (strobeSig s.cfg.adapter rs (lowNibble b) c false s.sig)] 4
      (strobeSig s.cfg.adapter rs (lowNibble b) c false s.sig)) 4 :=
  ⟨fun _ => ⟨rfl, rfl, rfl⟩, fun _ hs ha => writeByte_acked (by rw [hs]; exact hc) ha rs b⟩

end AckedBy

end Sys2Proof.Machine
end

