-- ==== Sys2Proof/Laws/Encoding.lean ====
section
/-! SUPPORT. Operand fields: each encodes and decodes to itself, and one that decodes is the number of what it decodes to
(spec 30_encoding.md R92, R94, R95). -/

namespace Sys2Proof

@[simp] theorem byteField_toNat (b : Byte) : byteField b.toNat = .ok b := by
  have := b.isLt
  simp [byteField, this]

@[simp] theorem nibbleField_toNat (n : Nibble) : nibbleField n.toNat = .ok n := by
  have := n.isLt
  simp [nibbleField, this]

@[simp] theorem boolField_fieldOfBool (b : Bool) : boolField (fieldOfBool b) = .ok b := by cases b <;> rfl

@[simp] theorem textField_fieldsOfBytes (bs : List Byte) : textField (fieldsOfBytes bs) = .ok bs := by
  induction bs with
  | nil => rfl
  | cons b bs ih =>
    simp only [fieldsOfBytes, List.map_cons, textField, byteField_toNat] at ih ⊢
    simp [ih]

theorem byteField_eq_ok {n : Nat} {b : Byte} (h : byteField n = .ok b) : n = b.toNat := by
  simp only [byteField] at h
  split at h
  · cases h
    simpa using by omega
  · cases h

theorem nibbleField_eq_ok {n : Nat} {b : Nibble} (h : nibbleField n = .ok b) : n = b.toNat := by
  simp only [nibbleField] at h
  split at h
  · cases h
    simpa using by omega
  · cases h

theorem boolField_eq_ok {n : Nat} {b : Bool} (h : boolField n = .ok b) : n = fieldOfBool b := by
  simp only [boolField] at h
  split at h
  · cases h
    simpa [fieldOfBool]
  split at h
  · cases h
    simpa [fieldOfBool]
  · cases h

theorem textField_eq_ok {ns : List Nat} {bs : List Byte} (h : textField ns = .ok bs) : ns = fieldsOfBytes bs := by
  induction ns generalizing bs with
  | nil => cases h; rfl
  | cons n ns ih =>
    simp only [textField] at h
    split at h
    · next hb hbs =>
      cases h
      simp [fieldsOfBytes, byteField_eq_ok hb, ih hbs]
    · cases h
    · cases h

theorem byteField_large {n : Nat} (h : 0xFF < n) : byteField n = .error .operandDoesNotFit := by
  simp [byteField, show ¬ n < 256 by omega]

theorem nibbleField_large {n : Nat} (h : 0xF < n) : nibbleField n = .error .operandDoesNotFit := by
  simp [nibbleField, show ¬ n < 16 by omega]

theorem boolField_large {n : Nat} (h : 1 < n) : boolField n = .error .operandDoesNotFit := by
  simp [boolField, show n ≠ 0 by omega, show n ≠ 1 by omega]

end Sys2Proof
end

