-- ==== Sys2Proof/Laws/Exact.lean ====
section
/-! SUPPORT. `Exact`: everything an operation can do to the bus, the trace and the host's results, whatever the bus answers
(spec 20_memory.md R52, 60_exceptions.md R232, R236): it uses up n answers in order, and it fails with `BusError` exactly at
the first one that fails. Proved once for every shared operation. -/

namespace Sys2Proof.Machine

variable {α β : Type}

/-- The state changed in nothing but registers. -/
structure RegistersOnly (s t : State) : Prop where
  txn : t.txn = s.txn
  busScript : t.busScript = s.busScript
  trace : t.trace = s.trace
  results : t.results = s.results
  job : t.job = s.job
  fault : t.fault = s.fault
  cfg : t.cfg = s.cfg
  requests : t.requests = s.requests

/-- From s to t, n transactions were issued and the events evs recorded, one for each transaction; nothing was returned to the host. -/
structure Issued (s t : State) (n : Nat) (evs : List Event) : Prop where
  txn : t.txn = s.txn + n
  busScript : t.busScript = s.busScript.drop n
  trace : t.trace = s.trace ++ evs
  count : evs.countP isTransaction = n
  results : t.results = s.results
  job : t.job = s.job
  fault : t.fault = s.fault
  cfg : t.cfg = s.cfg
  requests : t.requests = s.requests

/-- The transactions all succeeded and the result is no bus error, or the last one failed, with that error, and nothing was
recorded after it. -/
def Ended (s : State) (n : Nat) (evs : List Event) (r : Except OpError α) : Prop :=
  (Acks s n ∧ ∀ e, r ≠ .error (.busError e)) ∨
  (∃ e pre ev, 0 < n ∧ answerAt s (n - 1) = .err e ∧ Acks s (n - 1) ∧ r = .error (.busError e) ∧
    evs = pre ++ [ev] ∧ ∀ t, ev ≠ .delay t)

/-- What an operation can do. -/
def Exact (op : Op α) : Prop := ∀ s, ∃ n evs, Issued s (op s).2 n evs ∧ Ended s n evs (op s).1

theorem RegistersOnly.issued {s t : State} (h : RegistersOnly s t) : Issued s t 0 [] where
  txn := h.txn
  busScript := by simpa using h.busScript
  trace := by simpa using h.trace
  count := rfl
  results := h.results
  job := h.job
  fault := h.fault
  cfg := h.cfg
  requests := h.requests

theorem Issued.trans {s t u : State} {m n : Nat} {e₁ e₂ : List Event} (h₁ : Issued s t m e₁) (h₂ : Issued t u n e₂) :
    Issued s u (m + n) (e₁ ++ e₂) where
  txn := by rw [h₂.txn, h₁.txn, Nat.add_assoc]
  busScript := by rw [h₂.busScript, h₁.busScript, List.drop_drop]
  trace := by rw [h₂.trace, h₁.trace, List.append_assoc]
  count := by rw [List.countP_append, h₁.count, h₂.count]
  results := h₂.results.trans h₁.results
  job := h₂.job.trans h₁.job
  fault := h₂.fault.trans h₁.fault
  cfg := h₂.cfg.trans h₁.cfg
  requests := h₂.requests.trans h₁.requests

theorem Issued.answerAt {s t : State} {m : Nat} {evs : List Event} (h : Issued s t m evs) (k : Nat) :
    answerAt t k = Machine.answerAt s (m + k) := by
  simp [Machine.answerAt, h.busScript, h.txn, List.getElem?_drop, Nat.add_assoc]

theorem Issued.acks {s t : State} {m n : Nat} {evs : List Event} (h : Issued s t m evs) (h₁ : Acks s m)
    (h₂ : Acks t n) : Acks s (m + n) := by
  intro k hk
  by_cases hkm : k < m
  · exact h₁ k hkm
  · have := h₂ (k - m) (by omega)
    rwa [h.answerAt, show m + (k - m) = k by omega] at this

/-- The end of the second operation, seen from before the first. -/
theorem Issued.ended {s t : State} {m n : Nat} {e₁ e₂ : List Event} {r : Except OpError α} (h : Issued s t m e₁)
    (h₁ : Acks s m) (h₂ : Ended t n e₂ r) : Ended s (m + n) (e₁ ++ e₂) r := by
  rcases h₂ with ⟨ha, hr⟩ | ⟨e, pre, ev, hn, he, ha, hr, hev, hd⟩
  · exact .inl ⟨h.acks h₁ ha, hr⟩
  · refine .inr ⟨e, e₁ ++ pre, ev, by omega, ?_, ?_, hr, by simp [hev], hd⟩
    · rw [h.answerAt] at he
      rwa [show m + n - 1 = m + (n - 1) by omega]
    · rw [show m + n - 1 = m + (n - 1) by omega]
      exact h.acks h₁ ha

/-- An error ends the operation as it ended the step that raised it. -/
theorem Ended.error {s : State} {n : Nat} {evs : List Event} {e : OpError}
    (h : Ended s n evs (.error e : Except OpError α)) : Ended s n evs (.error e : Except OpError β) := by
  rcases h with ⟨ha, hr⟩ | ⟨p, pre, ev, hn, he, ha, hr, hev, hd⟩
  · exact .inl ⟨ha, fun p hp => hr p (by simpa using hp)⟩
  · exact .inr ⟨p, pre, ev, hn, he, ha, by simpa using hr, hev, hd⟩

/-- A step that returned a value was acknowledged throughout. -/
theorem Ended.acks_of_ok {s : State} {n : Nat} {evs : List Event} {a : α}
    (h : Ended s n evs (.ok a : Except OpError α)) : Acks s n := by
  rcases h with ⟨ha, -⟩ | ⟨_, _, _, _, _, _, hr, _, _⟩
  · exact ha
  · cases hr

theorem acks_zero (s : State) : Acks s 0 := fun _ h => absurd h (Nat.not_lt_zero _)

theorem exact_opReturn (a : α) : Exact (opReturn a) := fun _ =>
  ⟨0, [], RegistersOnly.issued ⟨rfl, rfl, rfl, rfl, rfl, rfl, rfl, rfl⟩, .inl ⟨acks_zero _, nofun⟩⟩

theorem exact_raise {e : OpError} (h : ∀ p, e ≠ .busError p) : Exact (raise e : Op α) := fun _ =>
  ⟨0, [], RegistersOnly.issued ⟨rfl, rfl, rfl, rfl, rfl, rfl, rfl, rfl⟩,
    .inl ⟨acks_zero _, fun p hp => h p (by simpa using hp)⟩⟩

theorem exact_update {f : State → State} (h : ∀ s, RegistersOnly s (f s)) : Exact (update f) := fun s =>
  ⟨0, [], (h s).issued, .inl ⟨acks_zero _, nofun⟩⟩

theorem exact_delay (t : Nat) : Exact (delay t) := fun _ =>
  ⟨0, [.delay t], ⟨rfl, rfl, rfl, rfl, rfl, rfl, rfl, rfl, rfl⟩, .inl ⟨acks_zero _, nofun⟩⟩

theorem issued_issue {e : Event} (h : isTransaction e = true) (s : State) : Issued s (issue e s) 1 [e] :=
  ⟨rfl, by simp, rfl, by simp [h], rfl, rfl, rfl, rfl, rfl⟩

theorem exact_memWrite (bytes : List Byte) : Exact (memWrite bytes) := by
  intro s
  refine ⟨1, [.busWrite s.cfg.busAddr bytes], issued_issue rfl s, ?_⟩
  cases h : nextAnswer s with
  | ok b =>
    rw [memWrite_ok h]
    exact .inl ⟨fun k hk => by rw [show k = 0 by omega, ← nextAnswer_eq_answerAt, h]; rfl, nofun⟩
  | err e =>
    rw [memWrite_err h]
    exact .inr ⟨e, [], _, by omega, by rw [← nextAnswer_eq_answerAt, h], acks_zero _, rfl, rfl, nofun⟩

theorem exact_memRead : Exact memRead := by
  intro s
  refine ⟨1, [.busRead s.cfg.busAddr], issued_issue rfl s, ?_⟩
  cases h : nextAnswer s with
  | ok b =>
    rw [memRead_ok h]
    exact .inl ⟨fun k hk => by rw [show k = 0 by omega, ← nextAnswer_eq_answerAt, h]; rfl, nofun⟩
  | err e =>
    rw [memRead_err h]
    exact .inr ⟨e, [], _, by omega, by rw [← nextAnswer_eq_answerAt, h], acks_zero _, rfl, rfl, nofun⟩

theorem exact_opBind {m : Op α} {k : α → Op β} (hm : Exact m) (hk : ∀ a, Exact (k a)) : Exact (opBind m k) := by
  intro s
  obtain ⟨n, evs, hi, he⟩ := hm s
  rcases h : m s with ⟨r, s'⟩
  rw [h] at hi he
  cases r with
  | error e =>
    rw [opBind_error h]
    exact ⟨n, evs, hi, he.error⟩
  | ok a =>
    rw [opBind_ok h]
    obtain ⟨n', evs', hi', he'⟩ := hk a s'
    exact ⟨n + n', evs ++ evs', hi.trans hi', hi.ended he.acks_of_ok he'⟩

theorem exact_seqOps {l : List (Op Unit)} (h : ∀ op ∈ l, Exact op) : Exact (seqOps l) := by
  induction l with
  | nil => exact exact_opReturn ()
  | cons op l ih => exact exact_opBind (h op (by simp)) fun _ => ih fun o ho => h o (by simp [ho])

/-- An operation that is, in every state, one that is exact. -/
theorem exact_of_eq {op : Op α} (h : ∀ s, ∃ op', Exact op' ∧ op s = op' s) : Exact op := by
  intro s
  obtain ⟨op', h', he⟩ := h s
  rw [he]
  exact h' s

theorem exact_fanOut {body : Byte → Op Unit} (h : ∀ c, Exact (body c)) : Exact (fanOut body) :=
  exact_of_eq fun s => ⟨_, exact_seqOps (l := (controllersOf s.cfg.adapter).map body) (by
    intro op hop
    obtain ⟨c, -, rfl⟩ := List.mem_map.mp hop
    exact h c), rfl⟩

theorem exact_updateSig (f : SignalState → SignalState) : Exact (updateSig f) :=
  exact_update fun _ => ⟨rfl, rfl, rfl, rfl, rfl, rfl, rfl, rfl⟩

theorem exact_setRs (v : Bool) : Exact (setRs v) := exact_updateSig _
theorem exact_setBacklight (v : Bool) : Exact (setBacklight v) := exact_updateSig _
theorem exact_setData (v : Nibble) : Exact (setData v) := exact_updateSig _

theorem exact_setRw (v : Bool) : Exact (setRw v) :=
  exact_update fun s => by split <;> exact ⟨rfl, rfl, rfl, rfl, rfl, rfl, rfl, rfl⟩

theorem exact_setEnable (v : Bool) (c : Byte) : Exact (setEnable v c) :=
  exact_of_eq fun s => by
    unfold setEnable
    split
    · exact ⟨_, exact_updateSig _, rfl⟩
    · exact ⟨_, exact_raise (by simp), rfl⟩

theorem exact_setActive (c : BitVec 1) : Exact (setActive c) :=
  exact_update fun _ => ⟨rfl, rfl, rfl, rfl, rfl, rfl, rfl, rfl⟩

theorem exact_setFsm (f : Fsm) : Exact (setFsm f) :=
  exact_update fun _ => ⟨rfl, rfl, rfl, rfl, rfl, rfl, rfl, rfl⟩

theorem exact_setMode (c : Byte) (f : ModeBytes → ModeBytes) : Exact (update (setMode c f)) :=
  exact_update fun s => by
    unfold setMode
    split_ifs <;> exact ⟨rfl, rfl, rfl, rfl, rfl, rfl, rfl, rfl⟩

theorem exact_writeStateToBus : Exact writeStateToBus := exact_of_eq fun _ => ⟨_, exact_memWrite _, rfl⟩

theorem exact_hardwareInit : Exact hardwareInit :=
  exact_of_eq fun s => by
    unfold hardwareInit
    split
    · exact ⟨_, exact_memWrite _, rfl⟩
    · exact ⟨_, exact_opReturn _, rfl⟩
    · exact ⟨_, exact_opReturn _, rfl⟩

theorem exact_writeNibble (rs : Bool) (nib : Nibble) (c : Byte) : Exact (writeNibble rs nib c) :=
  exact_seqOps (by simp [exact_setRs, exact_setRw, exact_setData, exact_setEnable, exact_writeStateToBus])

theorem exact_writeByte (rs : Bool) (b c : Byte) : Exact (writeByte rs b c) :=
  exact_seqOps (by simp [exact_writeNibble])

theorem exact_command (c b : Byte) (t : Nat) : Exact (command c b t) :=
  exact_seqOps (by simp [exact_writeByte, exact_delay])

theorem exact_dataByte (c b : Byte) : Exact (dataByte c b) :=
  exact_seqOps (by simp [exact_writeByte, exact_delay])

theorem exact_readStrobe (c : Byte) : Exact (readStrobe c) :=
  exact_opBind (exact_seqOps (by simp [exact_setEnable, exact_writeStateToBus])) fun _ =>
    exact_opBind exact_memRead fun _ =>
      exact_opBind (exact_seqOps (by simp [exact_setEnable, exact_writeStateToBus])) fun _ => exact_opReturn _

theorem exact_strobeOnly (c : Byte) : Exact (strobeOnly c) :=
  exact_seqOps (by simp [exact_setEnable, exact_writeStateToBus])

theorem exact_readSetup (rs : Bool) (c : Byte) : Exact (readSetup rs c) :=
  exact_seqOps (by simp [exact_setRs, exact_setRw, exact_setData, exact_setEnable, exact_writeStateToBus])

theorem exact_readRestore : Exact readRestore := exact_seqOps (by simp [exact_setRw, exact_writeStateToBus])

theorem exact_readByte (rs : Bool) (c : Byte) : Exact (readByte rs c) :=
  exact_opBind (exact_readSetup rs c) fun _ => exact_opBind (exact_readStrobe c) fun _ =>
    exact_opBind (exact_readStrobe c) fun _ => exact_opBind exact_readRestore fun _ => exact_opReturn _

theorem exact_readNibble (c : Byte) : Exact (readNibble c) :=
  exact_opBind (exact_readSetup false c) fun _ => exact_opBind (exact_readStrobe c) fun _ =>
    exact_opBind (exact_seqOps (by simp [exact_strobeOnly, exact_readRestore])) fun _ => exact_opReturn _

theorem exact_pollOnce (c : Byte) : Exact (pollOnce c) :=
  exact_opBind (exact_readNibble c) fun _ => exact_opReturn _

theorem exact_whileReady {op : Op Unit} (h : Exact op) : Exact (whileReady op) :=
  exact_of_eq fun s => by
    cases hs : s.fsm
    · exact ⟨_, exact_opReturn (), whileReady_uninit hs op⟩
    · exact ⟨_, h, whileReady_ready hs op⟩

theorem exact_sendFunction (c v : Byte) : Exact (sendFunction c v) :=
  exact_seqOps (by simp [writeFunction, exact_setMode, exact_command])

theorem exact_sendControl (c v : Byte) : Exact (sendControl c v) :=
  exact_seqOps (by simp [writeControl, exact_setMode, exact_command])

theorem exact_sendEntry (c v : Byte) : Exact (sendEntry c v) :=
  exact_seqOps (by simp [writeEntry, exact_setMode, exact_command])

theorem exact_changeControl (f : Byte → Byte) (c : Byte) : Exact (changeControl f c) :=
  exact_of_eq fun _ => ⟨_, exact_sendControl _ _, rfl⟩

theorem exact_changeEntry (f : Byte → Byte) (c : Byte) : Exact (changeEntry f c) :=
  exact_of_eq fun _ => ⟨_, exact_sendEntry _ _, rfl⟩

theorem exact_changeCursor (f : Byte → Byte) (c : Byte) : Exact (changeCursor f c) :=
  exact_of_eq fun s => by
    unfold changeCursor
    split
    · exact ⟨_, exact_changeControl _ _, rfl⟩
    · exact ⟨_, exact_changeControl _ _, rfl⟩

theorem exact_requireCompatible : Exact requireCompatible :=
  exact_of_eq fun s => by
    unfold requireCompatible
    split
    · exact ⟨_, exact_opReturn _, rfl⟩
    · exact ⟨_, exact_raise (by simp), rfl⟩

theorem exact_initController (c : Byte) : Exact (initController c) :=
  exact_seqOps (by
    simp [exact_writeNibble, exact_delay, exact_sendFunction, exact_sendControl, exact_sendEntry, exact_command])

theorem exact_initSequence : Exact initSequence :=
  exact_seqOps (by
    simp [exact_setFsm, exact_requireCompatible, exact_hardwareInit, exact_fanOut exact_initController,
      exact_setBacklight, exact_writeStateToBus, exact_setActive])

theorem exact_placeCursor (col row : Byte) : Exact (placeCursor col row) :=
  exact_of_eq fun _ => ⟨_, exact_seqOps (by simp [exact_setActive, exact_command]), rfl⟩

theorem exact_setCursor (col row : Byte) : Exact (setCursor col row) :=
  exact_of_eq fun s => by
    unfold setCursor
    split
    · exact ⟨_, exact_raise (by simp), rfl⟩
    split
    · exact ⟨_, exact_raise (by simp), rfl⟩
    · exact ⟨_, exact_placeCursor _ _, rfl⟩

theorem exact_defineGlyph (loc : Byte) (g : Glyph) (c : Byte) : Exact (defineGlyph loc g c) :=
  exact_seqOps (by simp [exact_command, Glyph.rows, exact_dataByte])

theorem exact_printText (text : List Byte) : Exact (printText text) :=
  exact_of_eq fun s => ⟨_, exact_seqOps (l := text.map (dataByte (controllerByte s.active))) (by
    intro op hop
    obtain ⟨b, -, rfl⟩ := List.mem_map.mp hop
    exact exact_dataByte _ _), rfl⟩

end Sys2Proof.Machine
end

