-- ==== Sys2Proof/Laws/Exec.lean ====
section
/-! SUPPORT. What an instruction can do (spec 00_scope.md R16, 10_state.md R36): it runs an exact operation to its end, starts
a read that goes on step by step, enters the faulted state, or is refused. -/

namespace Sys2Proof.Machine

/-- The four ways exec can go. -/
inductive ExecCases (s : State) (o : Outcome) : Prop where
  | complete {α : Type} (f : α → Value) (op : Op α) (exact : Exact op) (eq : o = Machine.complete f op s)
  | reading (k : ReadKind) (rs : Bool) (c : Byte) (n : Nat) (reads : supportsReadsOf s.cfg.adapter = true)
      (eq : o = .next (jobStep ⟨k, rs, c, n, []⟩ s))
  | faulted (reads : supportsReadsOf s.cfg.adapter = false)
      (eq : o = .next { s with fault := some .unsupportedRead })
  | refused (r : Refusal) (eq : o = .refused r)

theorem cases_answer (v : State → Value) (s : State) : ExecCases s (answer v s) :=
  .complete (α := Value) id _ (exact_of_eq fun _ => ⟨_, exact_opReturn _, rfl⟩) rfl

theorem cases_startRead {s : State} (hs : supportsReadsOf s.cfg.adapter = true) (k : ReadKind) (rs : Bool) (n : Nat)
    (c : Byte) : ExecCases s (startRead k rs n c s) := by
  unfold startRead
  split
  · exact cases_answer _ s
  · exact .reading k rs c n hs rfl

theorem cases_whenReady {s : State} {o : Outcome} (h : s.fsm = .ready → ExecCases s o) :
    ExecCases s (whenReady s o) := by
  unfold whenReady
  split
  · exact h (by assumption)
  · exact .refused _ rfl

theorem cases_whenReadable {s : State} {o : Outcome} (h : supportsReadsOf s.cfg.adapter = true → ExecCases s o) :
    ExecCases s (whenReadable s o) := by
  unfold whenReadable
  split
  · exact h (by assumption)
  · exact .faulted (by simp_all) rfl

theorem cases_whenAdapter {a : Adapter} {s : State} {o : Outcome} (h : ExecCases s o) :
    ExecCases s (whenAdapter a s o) := by
  unfold whenAdapter
  split
  · exact h
  · exact .refused _ rfl

/-- What any instruction can do, in any state. -/
theorem exec_cases (i : Instr) (s : State) : ExecCases s (exec i s) := by
  cases i
  case init => exact .complete _ _ exact_initSequence rfl
  case clear => exact cases_whenReady fun _ => .complete _ _ (exact_fanOut fun _ => exact_command _ _ _) rfl
  case home =>
    exact cases_whenReady fun _ => .complete _ _ (exact_seqOps (by simp [exact_fanOut, exact_command, exact_setActive])) rfl
  case setCursor => exact cases_whenReady fun _ => .complete _ _ (exact_setCursor _ _) rfl
  case showCursor => exact cases_whenReady fun _ => .complete _ _ (exact_fanOut fun _ => exact_changeCursor _ _) rfl
  case blinkCursor => exact cases_whenReady fun _ => .complete _ _ (exact_fanOut fun _ => exact_changeCursor _ _) rfl
  case showDisplay => exact cases_whenReady fun _ => .complete _ _ (exact_fanOut fun _ => exact_changeControl _ _) rfl
  case scrollLeft => exact cases_whenReady fun _ => .complete _ _ (exact_fanOut fun _ => exact_command _ _ _) rfl
  case scrollRight => exact cases_whenReady fun _ => .complete _ _ (exact_fanOut fun _ => exact_command _ _ _) rfl
  case leftToRight => exact cases_whenReady fun _ => .complete _ _ (exact_fanOut fun _ => exact_changeEntry _ _) rfl
  case rightToLeft => exact cases_whenReady fun _ => .complete _ _ (exact_fanOut fun _ => exact_changeEntry _ _) rfl
  case autoscroll => exact cases_whenReady fun _ => .complete _ _ (exact_fanOut fun _ => exact_changeEntry _ _) rfl
  case createChar loc g =>
    show ExecCases s (execCreateChar loc g s)
    unfold execCreateChar; split
    · exact cases_whenReady fun _ => .complete _ _ (exact_fanOut fun _ => exact_defineGlyph _ _ _) rfl
    · exact .refused _ rfl
  case print => exact cases_whenReady fun _ => .complete _ _ (exact_printText _) rfl
  case backlight =>
    exact cases_whenReady fun _ => .complete _ _ (exact_seqOps (by simp [exact_setBacklight, exact_writeStateToBus])) rfl
  case readDeviceData n =>
    refine cases_whenReady fun _ => ?_
    split
    · exact cases_startRead (by assumption) _ _ _ _
    · exact .complete _ _ (exact_raise (by simp)) rfl
  case readAddressCounter =>
    refine cases_whenReady fun _ => ?_
    split
    · exact cases_startRead (by assumption) _ _ _ _
    · exact .complete _ _ (exact_raise (by simp)) rfl
  case hardwareInit => exact .complete _ _ exact_hardwareInit rfl
  case setRs => exact .complete _ _ (exact_setRs _) rfl
  case setRw => exact .complete _ _ (exact_setRw _) rfl
  case setBacklight => exact .complete _ _ (exact_setBacklight _) rfl
  case setEnable => exact .complete _ _ (exact_setEnable _ _) rfl
  case setData => exact .complete _ _ (exact_setData _) rfl
  case writeStateToBus => exact .complete _ _ exact_writeStateToBus rfl
  case writeNibble => exact .complete _ _ (exact_writeNibble _ _ _) rfl
  case writeByte => exact .complete _ _ (exact_writeByte _ _ _) rfl
  case readByte => exact cases_whenReadable fun _ => .complete _ _ (exact_readByte _ _) rfl
  case busyPoll => exact cases_whenReadable fun h => .reading _ _ _ _ h rfl
  case readBytes => exact cases_whenReadable fun h => cases_startRead h _ _ _ _
  case frameGeneric =>
    exact cases_whenAdapter (.complete _ _ (exact_seqOps (by
      simp [exact_setRs, exact_setRw, exact_setBacklight, exact_setEnable, exact_setData, exact_writeStateToBus])) rfl)
  case frameAdafruit =>
    exact cases_whenAdapter (.complete _ _ (exact_seqOps (by
      simp [exact_setRs, exact_setBacklight, exact_setEnable, exact_setData, exact_writeStateToBus])) rfl)
  case frameDual =>
    exact cases_whenAdapter (.complete _ _ (exact_seqOps (by
      simp [exact_setRs, exact_setBacklight, exact_setEnable, exact_setData, exact_writeStateToBus])) rfl)
  case powerupAdafruit => exact cases_whenAdapter (.complete _ _ (exact_memWrite _) rfl)
  case readNibbleGeneric =>
    exact cases_whenAdapter (.complete _ _ (exact_readNibble _) rfl)
  case clearDisplay => exact .complete _ _ (exact_command _ _ _) rfl
  case returnHome => exact .complete _ _ (exact_command _ _ _) rfl
  case entryModeSet =>
    exact .complete _ _ (exact_seqOps (by simp [exact_whileReady, writeEntry, exact_setMode, exact_command])) rfl
  case displayControl =>
    exact .complete _ _ (exact_seqOps (by simp [exact_whileReady, writeControl, exact_setMode, exact_command])) rfl
  case cursorDisplayShift => exact .complete _ _ (exact_command _ _ _) rfl
  case functionSet => exact .complete _ _ (exact_command _ _ _) rfl
  case setCgramAddr => exact .complete _ _ (exact_command _ _ _) rfl
  case setDdramAddr => exact .complete _ _ (exact_command _ _ _) rfl
  case handshakeNibble3 => exact .complete _ _ (exact_writeNibble _ _ _) rfl
  case handshakeNibble2 => exact .complete _ _ (exact_writeNibble _ _ _) rfl
  case dataWrite => exact .complete _ _ (exact_dataByte _ _) rfl
  case statusRead => exact cases_whenReadable fun _ => .complete _ _ (exact_readByte _ _) rfl
  case dataRead => exact cases_whenReadable fun _ => .complete _ _ (exact_readByte _ _) rfl
  all_goals exact cases_answer _ _

end Sys2Proof.Machine
end

