-- ==== Sys2Proof/Laws/Kept.lean ====
section
/-! SUPPORT. Relations between the states before and after that every transfer respects, whatever the bus answers: it is
enough that the four things a transfer does respect them (spec 20_memory.md R50 to R56, 40_encoder_adapter.md R110 to R117). -/

namespace Sys2Proof.Machine

variable {α β : Type}

/-- The bytes of a write: the frame of `SIG`, or the MCP23008's power-up frame (R110, R111). -/
def Emits (s : State) (bytes : List Byte) : Prop :=
  bytes = encodeFrame s.cfg.adapter s.sig ∨ (s.cfg.adapter = .adafruitMcp23008 ∧ bytes = powerupFrame)

/-- The delays the block waits (R10). -/
def SettleDelay (t : Nat) : Prop :=
  t = tReset1 ∨ t = tReset2 ∨ t = tReset3 ∨ t = tClearHome ∨ t = tCmd ∨ t = tChar

/-- A relation that the primitives of a transfer respect. `SIG.RW` changes only where there is an RW line, `SIG.EN[1]` only
where there is a second controller, and no transfer changes `SIG.BL`. -/
structure TransferKept (R : State → State → Prop) : Prop extends Carried R where
  sig : ∀ s rs rw en0 en1 data, (hasRwOf s.cfg.adapter = false → rw = s.sig.rw) →
    (controllerCountOf s.cfg.adapter = 1 → en1 = s.sig.en1) → R s { s with sig := ⟨rs, rw, en0, en1, s.sig.bl, data⟩ }
  write : ∀ s bytes, Emits s bytes → R s (issue (.busWrite s.cfg.busAddr bytes) s)
  read : ∀ s, supportsReadsOf s.cfg.adapter = true → R s (issue (.busRead s.cfg.busAddr) s)
  wait : ∀ s t, SettleDelay t → R s (record (.delay t) s)

/-- Two steps in a row, where the second respects the relation in the state the first left. -/
theorem Carried.bind_at {R : State → State → Prop} (h : Carried R) {m : Op α} {k : α → Op β} {s : State}
    (hm : R s (m s).2) (hk : ∀ a s', m s = (.ok a, s') → R s' (k a s').2) : R s (Machine.opBind m k s).2 := by
  rcases hms : m s with ⟨r, s'⟩
  rw [hms] at hm
  cases r with
  | ok a =>
    rw [opBind_ok hms]
    exact h.trans hm (hk a s' hms)
  | error e =>
    rw [opBind_error hms]
    exact hm

/-- An exact operation keeps the configuration. -/
theorem Exact.cfg {op : Op α} (h : Exact op) {s s' : State} {r : Except OpError α} (hs : op s = (r, s')) :
    s'.cfg = s.cfg := by
  obtain ⟨_, _, hi, -⟩ := h s
  simpa [hs] using hi.cfg

namespace TransferKept

variable {R : State → State → Prop} (h : TransferKept R)
include h

theorem setRs (v : Bool) : Keeps R (setRs v) := fun s =>
  h.sig s v s.sig.rw s.sig.en0 s.sig.en1 s.sig.data (fun _ => rfl) (fun _ => rfl)

theorem setData (v : Nibble) : Keeps R (setData v) := fun s =>
  h.sig s s.sig.rs s.sig.rw s.sig.en0 s.sig.en1 v (fun _ => rfl) (fun _ => rfl)

theorem setRw (v : Bool) : Keeps R (setRw v) := by
  intro s
  by_cases hr : hasRwOf s.cfg.adapter = true
  · simpa [Machine.setRw, hr] using
      h.sig s s.sig.rs v s.sig.en0 s.sig.en1 s.sig.data (fun hn => by simp [hr] at hn) (fun _ => rfl)
  · simpa [Machine.setRw, hr] using h.refl s

theorem setEnable (v : Bool) (c : Byte) : Keeps R (setEnable v c) := by
  intro s
  unfold Machine.setEnable
  split
  · next hc =>
    simp only [updateSig, update_apply, withEnable]
    split
    · exact h.sig s s.sig.rs s.sig.rw v s.sig.en1 s.sig.data (fun _ => rfl) (fun _ => rfl)
    split
    · next h1 =>
      refine h.sig s s.sig.rs s.sig.rw s.sig.en0 v s.sig.data (fun _ => rfl) (fun hn => ?_)
      rw [hn, h1] at hc
      exact absurd hc (by decide)
    · exact h.refl s
  · exact h.refl s

theorem writeStateToBus : Keeps R writeStateToBus := fun s => h.write s _ (.inl rfl)
theorem delay {t : Nat} (ht : SettleDelay t) : Keeps R (delay t) := fun s => h.wait s t ht

/-- The power-up write, on the MCP23008. -/
theorem powerup {s : State} (hs : s.cfg.adapter = .adafruitMcp23008) : R s (memWrite powerupFrame s).2 :=
  h.write s _ (.inr ⟨hs, rfl⟩)

theorem hardwareInit : Keeps R hardwareInit := by
  intro s
  unfold Machine.hardwareInit
  split
  · exact h.powerup (by assumption)
  · exact h.refl s
  · exact h.refl s

theorem writeNibble (rs : Bool) (nib : Nibble) (c : Byte) : Keeps R (writeNibble rs nib c) :=
  h.seqOps (by simp [h.setRs, h.setRw, h.setData, h.setEnable, h.writeStateToBus])

theorem writeByte (rs : Bool) (b c : Byte) : Keeps R (writeByte rs b c) :=
  h.seqOps (by simp [h.writeNibble])

theorem command (c b : Byte) {t : Nat} (ht : SettleDelay t) : Keeps R (command c b t) :=
  h.seqOps (by simp [h.writeByte, h.delay ht])

theorem dataByte (c b : Byte) : Keeps R (dataByte c b) :=
  h.seqOps (by simp [h.writeByte, h.delay (t := tChar) (by simp [SettleDelay])])

theorem strobeOnly (c : Byte) : Keeps R (strobeOnly c) :=
  h.seqOps (by simp [h.setEnable, h.writeStateToBus])

theorem readSetup (rs : Bool) (c : Byte) : Keeps R (readSetup rs c) :=
  h.seqOps (by simp [h.setRs, h.setRw, h.setData, h.setEnable, h.writeStateToBus])

theorem readRestore : Keeps R readRestore :=
  h.seqOps (by simp [h.setRw, h.writeStateToBus])

theorem memRead {s : State} (hs : supportsReadsOf s.cfg.adapter = true) : R s (memRead s).2 := h.read s hs

theorem readStrobe {s : State} (hs : supportsReadsOf s.cfg.adapter = true) (c : Byte) : R s (readStrobe c s).2 := by
  refine h.bind_at (h.seqOps (by simp [h.setEnable, h.writeStateToBus]) s) fun _ s' h' => ?_
  have hc := (exact_seqOps (by simp [exact_setEnable, exact_writeStateToBus])).cfg h'
  refine h.bind_at (h.memRead (by rw [hc]; exact hs)) fun _ s'' _ => ?_
  exact h.opBind (h.seqOps (by simp [h.setEnable, h.writeStateToBus])) (fun _ => h.opReturn _) s''

theorem readByte {s : State} (hs : supportsReadsOf s.cfg.adapter = true) (rs : Bool) (c : Byte) :
    R s (readByte rs c s).2 := by
  refine h.bind_at (h.readSetup rs c s) fun _ s₁ h₁ => ?_
  have hs₁ : supportsReadsOf s₁.cfg.adapter = true := by rw [(exact_readSetup rs c).cfg h₁]; exact hs
  refine h.bind_at (h.readStrobe hs₁ c) fun _ s₂ h₂ => ?_
  have hs₂ : supportsReadsOf s₂.cfg.adapter = true := by rw [(exact_readStrobe c).cfg h₂]; exact hs₁
  refine h.bind_at (h.readStrobe hs₂ c) fun _ s₃ _ => ?_
  exact h.opBind h.readRestore (fun _ => h.opReturn _) s₃

theorem readNibble {s : State} (hs : supportsReadsOf s.cfg.adapter = true) (c : Byte) : R s (readNibble c s).2 := by
  refine h.bind_at (h.readSetup false c s) fun _ s₁ h₁ => ?_
  have hs₁ : supportsReadsOf s₁.cfg.adapter = true := by rw [(exact_readSetup false c).cfg h₁]; exact hs
  refine h.bind_at (h.readStrobe hs₁ c) fun _ s₂ _ => ?_
  exact h.opBind (h.seqOps (by simp [h.strobeOnly, h.readRestore])) (fun _ => h.opReturn _) s₂

theorem pollOnce {s : State} (hs : supportsReadsOf s.cfg.adapter = true) (c : Byte) : R s (pollOnce c s).2 :=
  h.bind_at (h.readNibble hs c) fun _ s' _ => h.opReturn _ s'

theorem whileReady {op : Op Unit} (ho : Keeps R op) : Keeps R (whileReady op) := by
  intro s
  cases hs : s.fsm
  · rw [whileReady_uninit hs]
    exact h.refl s
  · rw [whileReady_ready hs]
    exact ho s

theorem defineGlyph (loc : Byte) (g : Glyph) (c : Byte) : Keeps R (defineGlyph loc g c) := by
  refine h.seqOps fun op hop => ?_
  rcases List.mem_cons.mp hop with rfl | hop
  · exact h.command _ _ (by simp [SettleDelay])
  · obtain ⟨b, -, rfl⟩ := List.mem_map.mp hop
    exact h.dataByte _ _

theorem printText (text : List Byte) : Keeps R (printText text) := by
  intro s
  refine h.seqOps (l := text.map (Machine.dataByte (controllerByte s.active))) (fun op hop => ?_) s
  obtain ⟨b, -, rfl⟩ := List.mem_map.mp hop
  exact h.dataByte _ _

end TransferKept

end Sys2Proof.Machine
end

