-- ==== Sys2Proof/Laws/Reads.lean ====
section
/-! SUPPORT. The read sequences of the engine (spec 41_protocol_engine.md R146 to R150) on a bus that acknowledges, on the
one adapter that has reads. -/

namespace Sys2Proof.Machine

/-- The signals of a read's frames (R146, R147): DATA = 0xF, controller 0. -/
def readingSig (rs en rw : Bool) (g : SignalState) : SignalState :=
  { g with rs := rs, rw := rw, en0 := en, data := 0xF }

@[simp] theorem withEnable_readingSig (rs en rw v : Bool) (g : SignalState) :
    withEnable v 0 (readingSig rs en rw g) = readingSig rs v rw g := rfl

@[simp] theorem readingSig_readingSig (rs en rw rs' en' rw' : Bool) (g : SignalState) :
    readingSig rs en rw (readingSig rs' en' rw' g) = readingSig rs en rw g := rfl

theorem controllerCountOf_generic {a : Adapter} (h : a = .genericPcf8574t) : (0 : Byte).toNat < controllerCountOf a := by
  subst h; decide

variable {s : State} (hg : s.cfg.adapter = .genericPcf8574t)
include hg

/-- R147, R150, W1. -/
theorem readSetup_acked (h : Acks s 1) (rs : Bool) :
    readSetup rs 0 s = (.ok (), after s [frameEvent s (readingSig rs false true s.sig)] 1
      (readingSig rs false true s.sig)) := by
  unfold readSetup
  simp only [seqOps_cons_setRs, seqOps_cons_setRw, seqOps_cons_setData, hg, hasRwOf, if_true]
  refine (seqOps_cons_setEnable (s := { s with sig := { s.sig with rs := rs, rw := true, data := 0xF } })
    (controllerCountOf_generic hg) false [writeStateToBus]).trans ?_
  exact seqOps_write_after (n := 0) (g := readingSig rs false true s.sig) h []

/-- R146: the strobe of a read, from the signals a setup or an earlier strobe left. -/
theorem readStrobe_acked {rs rw : Bool} {g : SignalState} (h : Acks s 3) (hs : s.sig = readingSig rs false rw g) :
    readStrobe 0 s = (.ok (nibbleOf (answerData (answerAt s 1))), after s
      [frameEvent s (readingSig rs true rw g), .busRead s.cfg.busAddr, frameEvent s (readingSig rs false rw g)] 3
      (readingSig rs false rw g)) := by
  unfold readStrobe
  have h0 : (0 : Byte).toNat < controllerCountOf s.cfg.adapter := controllerCountOf_generic hg
  have e1 : seqOps [setEnable true 0, writeStateToBus] s =
      (.ok (), after s [frameEvent s (readingSig rs true rw g)] 1 (readingSig rs true rw g)) := by
    rw [seqOps_cons_setEnable h0, hs, withEnable_readingSig, seqOps_write_after (n := 0) (h.mono (by omega))]
    rfl
  rw [opBind_ok e1]
  have h2 : Acks (after s [frameEvent s (readingSig rs true rw g)] 1 (readingSig rs true rw g)) 2 := acks_after h _ _
  rw [opBind_ok (memRead_acked h2), answerAt_after]
  have h3 : Acks (issue (.busRead s.cfg.busAddr)
    (after s [frameEvent s (readingSig rs true rw g)] 1 (readingSig rs true rw g))) 1 := h2.issue _
  have e3 : ∀ u : State, u.cfg = s.cfg → u.sig = readingSig rs true rw g → Acks u 1 →
      seqOps [setEnable false 0, writeStateToBus] u =
      (.ok (), after u [frameEvent u (readingSig rs false rw g)] 1 (readingSig rs false rw g)) := by
    intro u hu hus hua
    rw [seqOps_cons_setEnable (by rw [hu]; exact h0), hus, withEnable_readingSig, seqOps_write_after (n := 0) hua]
    rfl
  refine (opBind_ok (e3 (issue (.busRead s.cfg.busAddr)
    (after s [frameEvent s (readingSig rs true rw g)] 1 (readingSig rs true rw g))) rfl rfl h3)).trans ?_
  simp [after, issue, record, frameEvent]

/-- R147, R150, W6. -/
theorem readRestore_acked {rs rw : Bool} {g : SignalState} (h : Acks s 1) (hs : s.sig = readingSig rs false rw g) :
    readRestore s = (.ok (), after s [frameEvent s (readingSig rs false false g)] 1 (readingSig rs false false g)) := by
  unfold readRestore
  simp only [seqOps_cons_setRw, hg, hasRwOf, if_true, hs]
  exact seqOps_write_after (n := 0) (g := readingSig rs false false g) h []

/-- R146. -/
theorem strobeOnly_acked {rs rw : Bool} {g : SignalState} (h : Acks s 2) (hs : s.sig = readingSig rs false rw g) :
    strobeOnly 0 s = (.ok (), after s
      [frameEvent s (readingSig rs true rw g), frameEvent s (readingSig rs false rw g)] 2 (readingSig rs false rw g)) := by
  unfold strobeOnly
  have h0 : (0 : Byte).toNat < controllerCountOf s.cfg.adapter := controllerCountOf_generic hg
  have h1 : Acks (after s [frameEvent s (readingSig rs true rw g)] 1 (readingSig rs true rw g)) 1 := acks_after h _ _
  rw [seqOps_cons_setEnable h0, hs, withEnable_readingSig, seqOps_write_after (n := 1) h,
    seqOps_cons_setEnable (s := after s _ _ _) h0, after_sig, withEnable_readingSig, seqOps_write_after (n := 0) h1,
    after_after, seqOps_nil]
  rfl

/-- A strobe after m transactions of a read. -/
theorem readStrobe_after {m : Nat} (h : Acks s (m + 3)) (rs : Bool) (evs : List Event) :
    readStrobe 0 (after s evs m (readingSig rs false true s.sig)) =
      (.ok (nibbleOf (answerData (answerAt s (m + 1)))), after s
        (evs ++ [frameEvent s (readingSig rs true true s.sig), .busRead s.cfg.busAddr,
          frameEvent s (readingSig rs false true s.sig)]) (m + 3) (readingSig rs false true s.sig)) := by
  have e := readStrobe_acked (s := after s evs m (readingSig rs false true s.sig)) hg (acks_after h _ _) (rs := rs)
    (rw := true) (g := s.sig) rfl
  rw [e, answerAt_after, after_after]
  rfl

/-- The restore write after m transactions of a read. -/
theorem readRestore_after {m : Nat} (h : Acks s (m + 1)) (rs : Bool) (evs : List Event) :
    readRestore (after s evs m (readingSig rs false true s.sig)) =
      (.ok (), after s (evs ++ [frameEvent s (readingSig rs false false s.sig)]) (m + 1)
        (readingSig rs false false s.sig)) := by
  have e := readRestore_acked (s := after s evs m (readingSig rs false true s.sig)) hg (acks_after h _ _) (rs := rs)
    (rw := true) (g := s.sig) rfl
  rw [e, after_after]
  rfl

/-- The low nibble's strobe after m transactions of a poll. -/
theorem strobeOnly_after {m : Nat} (h : Acks s (m + 2)) (rs : Bool) (evs : List Event) :
    strobeOnly 0 (after s evs m (readingSig rs false true s.sig)) =
      (.ok (), after s (evs ++ [frameEvent s (readingSig rs true true s.sig),
        frameEvent s (readingSig rs false true s.sig)]) (m + 2) (readingSig rs false true s.sig)) := by
  have e := strobeOnly_acked (s := after s evs m (readingSig rs false true s.sig)) hg (acks_after h _ _) (rs := rs)
    (rw := true) (g := s.sig) rfl
  rw [e, after_after]
  rfl

/-- R147, R148 on a bus that acknowledges. -/
theorem readByte_acked (h : Acks s 8) (rs : Bool) :
    readByte rs 0 s =
      (.ok (joinNibbles (nibbleOf (answerData (answerAt s 2))) (nibbleOf (answerData (answerAt s 5)))), after s
        [frameEvent s (readingSig rs false true s.sig), frameEvent s (readingSig rs true true s.sig),
          .busRead s.cfg.busAddr, frameEvent s (readingSig rs false true s.sig),
          frameEvent s (readingSig rs true true s.sig), .busRead s.cfg.busAddr,
          frameEvent s (readingSig rs false true s.sig), frameEvent s (readingSig rs false false s.sig)] 8
        (readingSig rs false false s.sig)) := by
  unfold readByte
  rw [opBind_ok (readSetup_acked hg (h.mono (by omega)) rs),
    opBind_ok (readStrobe_after hg (m := 1) (h.mono (by omega)) rs _),
    opBind_ok (readStrobe_after hg (m := 4) (h.mono (by omega)) rs _),
    opBind_ok (readRestore_after hg (m := 7) h rs _)]
  rfl

/-- R150 on a bus that acknowledges: the nibble one iteration reads. -/
theorem readNibble_acked (h : Acks s 7) :
    readNibble 0 s = (.ok (nibbleOf (answerData (answerAt s 2))), after s
        [frameEvent s (readingSig false false true s.sig), frameEvent s (readingSig false true true s.sig),
          .busRead s.cfg.busAddr, frameEvent s (readingSig false false true s.sig),
          frameEvent s (readingSig false true true s.sig), frameEvent s (readingSig false false true s.sig),
          frameEvent s (readingSig false false false s.sig)] 7
        (readingSig false false false s.sig)) := by
  unfold readNibble
  rw [opBind_ok (readSetup_acked hg (h.mono (by omega)) false),
    opBind_ok (readStrobe_after hg (m := 1) (h.mono (by omega)) false _)]
  refine (opBind_ok (a := ()) ?_).trans rfl
  rw [seqOps_cons_ok (strobeOnly_after hg (m := 4) (h.mono (by omega)) false _),
    seqOps_cons_ok (readRestore_after hg (m := 6) h false _)]
  rfl

/-- R150 on a bus that acknowledges: the flag one iteration sees. -/
theorem pollOnce_acked (h : Acks s 7) :
    pollOnce 0 s = (.ok (busyFlag (nibbleOf (answerData (answerAt s 2)))), after s
        [frameEvent s (readingSig false false true s.sig), frameEvent s (readingSig false true true s.sig),
          .busRead s.cfg.busAddr, frameEvent s (readingSig false false true s.sig),
          frameEvent s (readingSig false true true s.sig), frameEvent s (readingSig false false true s.sig),
          frameEvent s (readingSig false false false s.sig)] 7
        (readingSig false false false s.sig)) :=
  opBind_ok (readNibble_acked hg h)

end Sys2Proof.Machine
end

