-- ==== Sys2Proof/Laws/Jobs.lean ====
section
/-! SUPPORT. What a step does (spec 10_state.md R21), and the steps of a read operation in progress (41_protocol_engine.md
R150 to R152), one lemma per way each can go. -/

namespace Sys2Proof.Machine

/-! ### The step -/

theorem step_fault {s : State} {f : Fault} (h : s.fault = some f) : step s = .fault f := by
  simp [step, h]

theorem step_job {s : State} {j : ReadJob} (hf : s.fault = none) (hj : s.job = some j) :
    step s = .next (jobStep j s) := by
  simp [step, hf, hj]

theorem step_idle {s : State} (hf : s.fault = none) (hj : s.job = none) (hr : s.requests = []) :
    step s = .next s := by
  simp [step, hf, hj, hr]

theorem step_request {s : State} {p : Packet} {rest : List Packet} (hf : s.fault = none) (hj : s.job = none)
    (hr : s.requests = p :: rest) : step s = runPacket p { s with requests := rest } := by
  simp [step, hf, hj, hr]

/-- Everything a step to a next state can be: idle, an iteration of a read, or one decoded instruction. -/
theorem step_cases {s t : State} (h : step s = .next t) :
    s.fault = none ∧
    ((s.job = none ∧ s.requests = [] ∧ t = s) ∨
     (∃ j, s.job = some j ∧ t = jobStep j s) ∨
     (∃ p rest i, s.job = none ∧ s.requests = p :: rest ∧ decode p = .ok i ∧
        exec i { s with requests := rest } = .next t)) := by
  cases hf : s.fault with
  | some f => simp [step_fault hf] at h
  | none =>
    refine ⟨rfl, ?_⟩
    cases hj : s.job with
    | some j =>
      rw [step_job hf hj] at h
      exact .inr (.inl ⟨j, rfl, by simpa using h.symm⟩)
    | none =>
      cases hr : s.requests with
      | nil =>
        rw [step_idle hf hj hr] at h
        exact .inl ⟨rfl, rfl, by simpa using h.symm⟩
      | cons p rest =>
        rw [step_request hf hj hr, runPacket] at h
        cases hd : decode p with
        | error r => simp [hd] at h
        | ok i =>
          rw [hd] at h
          exact .inr (.inr ⟨p, rest, i, rfl, rfl, hd, by simpa [hf, hj] using h⟩)

theorem run_succ (M : Host.Core) {s t : M.State} (h : M.step s = .next t) (n : Nat) :
    M.run (n + 1) s = M.run n t := by
  rw [Host.Core.run, h]

/-- A run whose first step goes on. -/
theorem core_run_succ {s t : State} (h : step s = .next t) (n : Nat) :
    Sys2Proof.core.run (n + 1) s = Sys2Proof.core.run n t :=
  run_succ Sys2Proof.core h n

/-! ### A read operation in progress -/

theorem jobStep_busy {j : ReadJob} {s s' : State} (h : pollOnce j.c s = (.ok true, s')) :
    jobStep j s = { s' with job := some j } := by
  simp [jobStep, h]

theorem jobStep_clear {j : ReadJob} {s s' : State} (h : pollOnce j.c s = (.ok false, s')) :
    jobStep j s = jobRead j s' := by
  simp [jobStep, h]

theorem jobStep_error {j : ReadJob} {s s' : State} {e : OpError} (h : pollOnce j.c s = (.error e, s')) :
    jobStep j s = finish (.error e) s' := by
  simp [jobStep, h]

theorem jobRead_poll {j : ReadJob} (h : j.kind = .busyPoll) (s : State) : jobRead j s = finish (.value .ok) s := by
  simp [jobRead, h]

theorem jobRead_ok {j : ReadJob} {s s' : State} {b : Byte} (hk : j.kind ≠ .busyPoll)
    (h : Machine.readByte j.rs j.c s = (.ok b, s')) : jobRead j s = jobNext j b s' := by
  unfold jobRead
  cases hj : j.kind <;> simp_all

theorem jobRead_error {j : ReadJob} {s s' : State} {e : OpError} (hk : j.kind ≠ .busyPoll)
    (h : Machine.readByte j.rs j.c s = (.error e, s')) : jobRead j s = finish (.error e) s' := by
  unfold jobRead
  cases hj : j.kind <;> simp_all

theorem jobNext_last {j : ReadJob} (h : j.remaining ≤ 1) (b : Byte) (s : State) :
    jobNext j b s = finish (.value (jobValue j.kind (j.out ++ [b]))) s := by
  simp [jobNext, h]

theorem jobNext_more {j : ReadJob} (h : 1 < j.remaining) (b : Byte) (s : State) :
    jobNext j b s = { s with job := some { j with remaining := j.remaining - 1, out := j.out ++ [b] } } := by
  simp [jobNext, Nat.not_le.mpr h]

/-- A relation that transfers respect, and that does not depend on the results or on the operation in progress, is
respected by every step of a read operation. -/
theorem TransferKept.jobStep {R : State → State → Prop} (h : TransferKept R)
    (hfin : ∀ r s, R s (finish r s)) (hjob : ∀ j s, supportsReadsOf s.cfg.adapter = true → R s { s with job := j })
    (j : ReadJob) {s : State} (hs : supportsReadsOf s.cfg.adapter = true) : R s (jobStep j s) := by
  have hp := h.pollOnce hs j.c
  have hread : ∀ u, supportsReadsOf u.cfg.adapter = true → R u (jobRead j u) := by
    intro u hu
    have hr := h.readByte hu j.rs j.c
    by_cases hk : j.kind = .busyPoll
    · rw [jobRead_poll hk]
      exact hfin _ _
    rcases hur : Machine.readByte j.rs j.c u with ⟨r, u'⟩
    have hu' : supportsReadsOf u'.cfg.adapter = true := by rw [(exact_readByte _ _).cfg hur]; exact hu
    rw [hur] at hr
    cases r with
    | error e =>
      rw [jobRead_error hk hur]
      exact h.trans hr (hfin _ _)
    | ok b =>
      rw [jobRead_ok hk hur]
      by_cases h1 : j.remaining ≤ 1
      · rw [jobNext_last h1]
        exact h.trans hr (hfin _ _)
      · rw [jobNext_more (by omega)]
        exact h.trans hr (hjob _ _ hu')
  rcases hsp : Machine.pollOnce j.c s with ⟨r, s'⟩
  have hs' : supportsReadsOf s'.cfg.adapter = true := by rw [(exact_pollOnce _).cfg hsp]; exact hs
  rw [hsp] at hp
  cases r with
  | error e =>
    rw [jobStep_error hsp]
    exact h.trans hp (hfin _ _)
  | ok b =>
    cases b with
    | true =>
      rw [jobStep_busy hsp]
      exact h.trans hp (hjob _ _ hs')
    | false =>
      rw [jobStep_clear hsp]
      exact h.trans hp (hread _ hs')

/-- What one step of a read operation does, whatever the bus answers: it returns one result, or stays in progress. -/
theorem jobStep_exact (j : ReadJob) (s : State) :
    ∃ n evs, (jobStep j s).txn = s.txn + n ∧ (jobStep j s).busScript = s.busScript.drop n ∧
      (jobStep j s).trace = s.trace ++ evs ∧ evs.countP isTransaction = n ∧ (jobStep j s).fault = s.fault ∧ (jobStep j s).cfg = s.cfg ∧
      (jobStep j s).requests = s.requests ∧
      ((∃ r : Except OpError Value, (jobStep j s).results = s.results ++ [resultOf id r] ∧ (jobStep j s).job = none ∧
          Ended s n evs r) ∨
       ((jobStep j s).results = s.results ∧ (jobStep j s).job.isSome = true ∧ Acks s n)) := by
  obtain ⟨n, evs, hi, he⟩ := exact_pollOnce j.c s
  rcases h : Machine.pollOnce j.c s with ⟨r, s'⟩
  rw [h] at hi he
  dsimp only at hi he
  cases r with
  | error e =>
    rw [jobStep_error h]
    exact ⟨n, evs, hi.txn, hi.busScript, hi.trace, hi.count, hi.fault, hi.cfg, hi.requests,
      .inl ⟨.error e, by simp [hi.results, resultOf], rfl, he.error⟩⟩
  | ok b =>
    cases b with
    | true =>
      rw [jobStep_busy h]
      exact ⟨n, evs, hi.txn, hi.busScript, hi.trace, hi.count, hi.fault, hi.cfg, hi.requests,
        .inr ⟨hi.results, rfl, he.acks_of_ok⟩⟩
    | false =>
      rw [jobStep_clear h]
      by_cases hk : j.kind = .busyPoll
      · rw [jobRead_poll hk]
        exact ⟨n, evs, hi.txn, hi.busScript, hi.trace, hi.count, hi.fault, hi.cfg, hi.requests,
          .inl ⟨.ok .ok, by simp [hi.results, resultOf], rfl, .inl ⟨he.acks_of_ok, nofun⟩⟩⟩
      obtain ⟨n', evs', hi', he'⟩ := exact_readByte j.rs j.c s'
      rcases h' : Machine.readByte j.rs j.c s' with ⟨r, s''⟩
      rw [h'] at hi' he'
      dsimp only at hi' he'
      have hI := hi.trans hi'
      have hE := hi.ended he.acks_of_ok he'
      cases r with
      | error e =>
        rw [jobRead_error hk h']
        exact ⟨_, _, hI.txn, hI.busScript, hI.trace, hI.count, hI.fault, hI.cfg, hI.requests,
          .inl ⟨.error e, by simp [hI.results, resultOf], rfl, hE.error⟩⟩
      | ok b =>
        rw [jobRead_ok hk h']
        by_cases h1 : j.remaining ≤ 1
        · rw [jobNext_last h1]
          exact ⟨_, _, hI.txn, hI.busScript, hI.trace, hI.count, hI.fault, hI.cfg, hI.requests,
            .inl ⟨.ok (jobValue j.kind (j.out ++ [b])), by simp [hI.results, resultOf], rfl,
              .inl ⟨hE.acks_of_ok, nofun⟩⟩⟩
        · rw [jobNext_more (by omega)]
          exact ⟨_, _, hI.txn, hI.busScript, hI.trace, hI.count, hI.fault, hI.cfg, hI.requests,
            .inr ⟨hI.results, rfl, hE.acks_of_ok⟩⟩

end Sys2Proof.Machine
end

