-- ==== Sys2Proof/Laws/PerInstr.lean ====
section
/-! SUPPORT. A law of every instruction as syntax (spec 30_encoding.md R92 to R95): every number in its encoding fits a byte,
but for the length N of a read, which R93 leaves unbounded. -/

namespace Sys2Proof.Laws.OperandsFit

/-- The operand N of a read. -/
def readLength : Instr → Option Nat
  | .readDeviceData n => some n
  | .readBytes _ n _ => some n
  | _ => none

/-- Every field fits a byte, or is N. -/
def Fit (fields : List Nat) (n : Option Nat) : Prop := ∀ x ∈ fields, x < 256 ∨ n = some x

/-- The law. -/
def Statement (i : Instr) : Prop := Fit (encode i).fields (readLength i)

theorem fit_nil (n : Option Nat) : Fit [] n := nofun

theorem fit_cons {x : Nat} {l : List Nat} {n : Option Nat} (h : x < 256) (hl : Fit l n) : Fit (x :: l) n := by
  intro y hy
  rcases List.mem_cons.mp hy with rfl | hy
  · exact .inl h
  · exact hl y hy

theorem fit_length {x : Nat} {l : List Nat} (hl : Fit l (some x)) : Fit (x :: l) (some x) := by
  intro y hy
  rcases List.mem_cons.mp hy with rfl | hy
  · exact .inr rfl
  · exact hl y hy

theorem fit_bytes (bs : List Byte) (n : Option Nat) : Fit (fieldsOfBytes bs) n := by
  intro x hx
  obtain ⟨b, -, rfl⟩ := List.mem_map.mp hx
  exact .inl b.isLt

theorem fieldOfBool_lt (b : Bool) : fieldOfBool b < 256 := by cases b <;> decide

theorem nibble_lt (n : Nibble) : n.toNat < 256 := by
  have := n.isLt
  omega

theorem init : Statement .init := fit_cons (by decide) (fit_nil _)

theorem clear : Statement .clear := fit_cons (by decide) (fit_nil _)

theorem home : Statement .home := fit_cons (by decide) (fit_nil _)

theorem setCursor (col : Byte) (row : Byte) : Statement (.setCursor col row) :=
  fit_cons (by decide) (fit_cons col.isLt (fit_cons row.isLt (fit_nil _)))

theorem showCursor (on : Bool) : Statement (.showCursor on) :=
  fit_cons (by decide) (fit_cons (fieldOfBool_lt on) (fit_nil _))

theorem blinkCursor (on : Bool) : Statement (.blinkCursor on) :=
  fit_cons (by decide) (fit_cons (fieldOfBool_lt on) (fit_nil _))

theorem showDisplay (on : Bool) : Statement (.showDisplay on) :=
  fit_cons (by decide) (fit_cons (fieldOfBool_lt on) (fit_nil _))

theorem scrollLeft : Statement .scrollLeft := fit_cons (by decide) (fit_nil _)

theorem scrollRight : Statement .scrollRight := fit_cons (by decide) (fit_nil _)

theorem leftToRight : Statement .leftToRight := fit_cons (by decide) (fit_nil _)

theorem rightToLeft : Statement .rightToLeft := fit_cons (by decide) (fit_nil _)

theorem autoscroll (on : Bool) : Statement (.autoscroll on) :=
  fit_cons (by decide) (fit_cons (fieldOfBool_lt on) (fit_nil _))

theorem createChar (loc : Byte) (glyph : Glyph) : Statement (.createChar loc glyph) :=
  fit_cons (by decide) (fit_cons loc.isLt (fit_bytes _ _))

theorem print (text : List Byte) : Statement (.print text) := fit_cons (by decide) (fit_bytes _ _)

theorem backlight (on : Bool) : Statement (.backlight on) :=
  fit_cons (by decide) (fit_cons (fieldOfBool_lt on) (fit_nil _))

theorem readDeviceData (n : Nat) : Statement (.readDeviceData n) := fit_cons (by decide) (fit_length (fit_nil _))

theorem readAddressCounter : Statement .readAddressCounter := fit_cons (by decide) (fit_nil _)

theorem supportsReads : Statement .supportsReads := fit_cons (by decide) (fit_nil _)

theorem defaultBusAddress : Statement .defaultBusAddress := fit_cons (by decide) (fit_nil _)

theorem adapterSupportsReads : Statement .adapterSupportsReads := fit_cons (by decide) (fit_nil _)

theorem controllerCount : Statement .controllerCount := fit_cons (by decide) (fit_nil _)

theorem isCompatible (g : Geometry) : Statement (.isCompatible g) :=
  fit_bytes [0x23, g.rows, g.cols, g.off0, g.off1, g.off2, g.off3] _

theorem hardwareInit : Statement .hardwareInit := fit_cons (by decide) (fit_nil _)

theorem setRs (v : Bool) : Statement (.setRs v) := fit_cons (by decide) (fit_cons (fieldOfBool_lt v) (fit_nil _))

theorem setRw (v : Bool) : Statement (.setRw v) := fit_cons (by decide) (fit_cons (fieldOfBool_lt v) (fit_nil _))

theorem setBacklight (v : Bool) : Statement (.setBacklight v) :=
  fit_cons (by decide) (fit_cons (fieldOfBool_lt v) (fit_nil _))

theorem setEnable (v : Bool) (idx : Byte) : Statement (.setEnable v idx) :=
  fit_cons (by decide) (fit_cons (fieldOfBool_lt v) (fit_cons idx.isLt (fit_nil _)))

theorem setData (nib : Nibble) : Statement (.setData nib) :=
  fit_cons (by decide) (fit_cons (nibble_lt nib) (fit_nil _))

theorem writeStateToBus : Statement .writeStateToBus := fit_cons (by decide) (fit_nil _)

theorem encode : Statement .encode := fit_cons (by decide) (fit_nil _)

theorem writeNibble (rs : Bool) (nib : Nibble) (c : Byte) : Statement (.writeNibble rs nib c) :=
  fit_cons (by decide) (fit_cons (fieldOfBool_lt rs) (fit_cons (nibble_lt nib) (fit_cons c.isLt (fit_nil _))))

theorem writeByte (rs : Bool) (b : Byte) (c : Byte) : Statement (.writeByte rs b c) :=
  fit_cons (by decide) (fit_cons (fieldOfBool_lt rs) (fit_cons b.isLt (fit_cons c.isLt (fit_nil _))))

theorem readByte (rs : Bool) (c : Byte) : Statement (.readByte rs c) :=
  fit_cons (by decide) (fit_cons (fieldOfBool_lt rs) (fit_cons c.isLt (fit_nil _)))

theorem busyPoll (c : Byte) : Statement (.busyPoll c) := fit_cons (by decide) (fit_cons c.isLt (fit_nil _))

theorem readBytes (rs : Bool) (n : Nat) (c : Byte) : Statement (.readBytes rs n c) :=
  fit_cons (by decide) (fit_cons (fieldOfBool_lt rs) (fit_length (fit_cons c.isLt (fit_nil _))))

theorem frameGeneric (data : Nibble) (bl : Bool) (en : Bool) (rw : Bool) (rs : Bool) : Statement (.frameGeneric data bl en rw rs) :=
  fit_bytes _ _

theorem frameAdafruit (bl : Bool) (data : Nibble) (en : Bool) (rs : Bool) : Statement (.frameAdafruit bl data en rs) :=
  fit_bytes _ _

theorem powerupAdafruit : Statement .powerupAdafruit := fit_bytes _ _

theorem frameDual (data : Nibble) (bl : Bool) (en0 : Bool) (en1 : Bool) (rs : Bool) : Statement (.frameDual data bl en0 en1 rs) :=
  fit_bytes _ _

theorem readNibbleGeneric : Statement .readNibbleGeneric := fit_nil _

theorem clearDisplay (c : Byte) : Statement (.clearDisplay c) := fit_cons (BitVec.isLt _) (fit_nil _)

theorem returnHome (c : Byte) : Statement (.returnHome c) := fit_cons (BitVec.isLt _) (fit_nil _)

theorem entryModeSet (c : Byte) (incr : Bool) (shift : Bool) : Statement (.entryModeSet c incr shift) :=
  fit_cons (BitVec.isLt _) (fit_nil _)

theorem displayControl (c : Byte) (display : Bool) (cursor : Bool) (blink : Bool) : Statement (.displayControl c display cursor blink) :=
  fit_cons (BitVec.isLt _) (fit_nil _)

theorem cursorDisplayShift (c : Byte) (right : Bool) : Statement (.cursorDisplayShift c right) :=
  fit_cons (BitVec.isLt _) (fit_nil _)

theorem functionSet (c : Byte) : Statement (.functionSet c) := fit_cons (BitVec.isLt _) (fit_nil _)

theorem setCgramAddr (c : Byte) (loc : BitVec 3) : Statement (.setCgramAddr c loc) :=
  fit_cons (BitVec.isLt _) (fit_nil _)

theorem setDdramAddr (c : Byte) (addr : BitVec 7) : Statement (.setDdramAddr c addr) :=
  fit_cons (BitVec.isLt _) (fit_nil _)

theorem handshakeNibble3 (c : Byte) : Statement (.handshakeNibble3 c) := fit_cons (nibble_lt _) (fit_nil _)

theorem handshakeNibble2 (c : Byte) : Statement (.handshakeNibble2 c) := fit_cons (nibble_lt _) (fit_nil _)

theorem dataWrite (c : Byte) (b : Byte) : Statement (.dataWrite c b) := fit_cons (BitVec.isLt _) (fit_nil _)

theorem statusRead (c : Byte) : Statement (.statusRead c) := fit_nil _

theorem dataRead (c : Byte) : Statement (.dataRead c) := fit_nil _

end Sys2Proof.Laws.OperandsFit
end

