-- ==== Sys2Proof/Tests/Slice0.lean ====
section
/-! SUPPORT. Tests: words written out from the spec's encodings, the worked examples of spec/95_test_vectors.md (each test
names its vector), and for every obligation with hypotheses a witness that meets them. -/

namespace Sys2Proof.Tests

-- one theorem after another: elaborated in parallel, the tests would start more threads than a sandbox has memory for
set_option Elab.async false

open Sys2Proof.Machine Sys2Proof.Claims

/-! ### Helpers -/

/-- 95_test_vectors.md: M16. -/
def m16 : Configuration := ⟨.adafruitMcp23008, 0x20, ⟨2, 16, 0x00, 0x40, 0x10, 0x50⟩⟩

/-- 95_test_vectors.md: D40. -/
def d40 : Configuration := ⟨.dualPcf8574t, 0x27, ⟨4, 40, 0x00, 0x40, 0x00, 0x40⟩⟩

/-- 95_test_vectors.md: G16. -/
def g16 : Configuration := defaultConfiguration

/-- A new instance whose bus gives these answers first. -/
def fresh (c : Configuration) (answers : List BusAnswer) : State := { State.resetWith c with busScript := answers }

/-- "after init": the mode bytes of an initialized controller. -/
def initMode : ModeBytes := ⟨some 0x08, some 0x04, some 0x02⟩

/-- 95_test_vectors.md: "after init", with the trace cleared. -/
def inited (c : Configuration) (answers : List BusAnswer) : State :=
  { fresh c answers with
    sig := ⟨false, false, false, false, true, 0x2⟩, mode0 := initMode,
    mode1 := if c.adapter = .dualPcf8574t then initMode else ModeBytes.reset, fsm := .ready }

/-- n acknowledged transactions. -/
def acks (n : Nat) : List BusAnswer := List.replicate n (.ok 0)

/-- "tx k fails", all before it acknowledged. -/
def failsAt (k : Nat) : List BusAnswer := acks (k - 1) ++ [.err 7]

/-- The answers of one poll iteration whose read gives b. -/
def polled (b : Byte) : List BusAnswer := [.ok 0, .ok 0, .ok b, .ok 0, .ok 0, .ok 0, .ok 0]

/-- The answers of a read_byte whose reads give x and y. -/
def byteAnswers (x y : Byte) : List BusAnswer := [.ok 0, .ok 0, .ok x, .ok 0, .ok 0, .ok y, .ok 0, .ok 0]

/-- A one-byte frame at 0x27. -/
def w (b : Byte) : Event := .busWrite 0x27 [b]

/-- An MCP23008 frame at 0x20. -/
def m (b : Byte) : Event := .busWrite 0x20 [0x09, b]

/-- A read at 0x27. -/
def r : Event := .busRead 0x27

/-- The state after an instruction, or before it where there is none. -/
def run (i : Instr) (s : State) : State := (nextState? (exec i s)).getD s

/-- The refusal of an outcome. -/
def refusal? : Host.Outcome State Fault Refusal → Option Refusal
  | .refused x => some x
  | .next _ => none
  | .fault _ => none

/-- The fault of an outcome. -/
def fault? : Host.Outcome State Fault Refusal → Option Fault
  | .fault x => some x
  | .next _ => none
  | .refused _ => none

/-- The ok result. -/
def ok : List OpResult := [.value .ok]

theorem acks_of_script {s : State} {n k : Nat} (h : s.busScript = acks n) (hk : k ≤ n) : Acks s k := by
  intro j hj
  simp [answerAt, h, acks, show j < n by omega, answerOk]

/-! ### WellFormed: the one check, and that an ill-formed instruction is refused -/

theorem test_wellformed_glyph_location : (Instr.createChar 7 default).wellFormed = true ∧
    (Instr.createChar 8 default).wellFormed = false := by decide

/-- V-L2-E18: LOC 8 does not fit. -/
theorem test_ill_formed_is_refused :
    decode ⟨.request, [0x0D, 8, 0, 0, 0, 0, 0, 0, 0, 0]⟩ = .error .operandDoesNotFit ∧
    refusal? (exec (.createChar 8 default) (inited g16 [])) = some .operandDoesNotFit := by decide

/-- V-L2-AD15: `set_data 0x10`; R95: other operands that do not fit, an unassigned code, a wrong number of operands. -/
theorem test_illegal_requests :
    decode ⟨.request, [0x29, 0x10]⟩ = .error .operandDoesNotFit ∧
    decode ⟨.request, [0x05, 2]⟩ = .error .operandDoesNotFit ∧
    decode ⟨.request, [0x04, 256, 0]⟩ = .error .operandDoesNotFit ∧
    decode ⟨.request, [0x13]⟩ = .error (.unassignedOpc 0x13) ∧
    decode ⟨.request, []⟩ = .error .emptyRequest ∧
    decode ⟨.request, [0x02, 0]⟩ = .error .wrongOperandCount := by decide

/-- R72, R83, R87, R90: bytes that no operation of the block emits. -/
theorem test_never_emitted :
    decode ⟨.lcdCommand 0, [0x00]⟩ = .error .neverEmitted ∧
    decode ⟨.lcdCommand 0, [0x14]⟩ = .error .neverEmitted ∧
    decode ⟨.lcdCommand 0, [0x38]⟩ = .error .neverEmitted ∧
    decode ⟨.lcdNibble 0, [0x4]⟩ = .error .neverEmitted ∧
    decode ⟨.busFrame .adafruitMcp23008, [0x09, 0x01]⟩ = .error .notAFrame := by decide

/-! ### Decoding: a word for every constructor -/

/-- R93, host port, in the table's order (V-L3 P1 to P4 give several of these encodings). -/
theorem test_decode_host :
    decode ⟨.request, [0x01]⟩ = .ok .init ∧ decode ⟨.request, [0x02]⟩ = .ok .clear ∧
    decode ⟨.request, [0x03]⟩ = .ok .home ∧ decode ⟨.request, [0x04, 0x05, 0x02]⟩ = .ok (.setCursor 5 2) ∧
    decode ⟨.request, [0x05, 1]⟩ = .ok (.showCursor true) ∧ decode ⟨.request, [0x06, 1]⟩ = .ok (.blinkCursor true) ∧
    decode ⟨.request, [0x07, 0]⟩ = .ok (.showDisplay false) ∧ decode ⟨.request, [0x08]⟩ = .ok .scrollLeft ∧
    decode ⟨.request, [0x09]⟩ = .ok .scrollRight ∧ decode ⟨.request, [0x0A]⟩ = .ok .leftToRight ∧
    decode ⟨.request, [0x0B]⟩ = .ok .rightToLeft ∧ decode ⟨.request, [0x0C, 1]⟩ = .ok (.autoscroll true) := by decide

theorem test_decode_host_data :
    decode ⟨.request, [0x0D, 0x00, 0x04, 0x0E, 0x1F, 0x04, 0x04, 0x04, 0x04, 0x00]⟩ =
      .ok (.createChar 0 ⟨0x04, 0x0E, 0x1F, 0x04, 0x04, 0x04, 0x04, 0x00⟩) ∧
    decode ⟨.request, [0x0E, 0x4F, 0x4B]⟩ = .ok (.print [0x4F, 0x4B]) ∧
    decode ⟨.request, [0x0E]⟩ = .ok (.print []) ∧
    decode ⟨.request, [0x0F, 0]⟩ = .ok (.backlight false) ∧ decode ⟨.request, [0x10, 1]⟩ = .ok (.readDeviceData 1) ∧
    decode ⟨.request, [0x11]⟩ = .ok .readAddressCounter ∧ decode ⟨.request, [0x12]⟩ = .ok .supportsReads := by decide

theorem test_decode_adapter :
    decode ⟨.request, [0x20]⟩ = .ok .defaultBusAddress ∧ decode ⟨.request, [0x21]⟩ = .ok .adapterSupportsReads ∧
    decode ⟨.request, [0x22]⟩ = .ok .controllerCount ∧
    decode ⟨.request, [0x23, 2, 16, 0x00, 0x40, 0x10, 0x50]⟩ = .ok (.isCompatible ⟨2, 16, 0x00, 0x40, 0x10, 0x50⟩) ∧
    decode ⟨.request, [0x24]⟩ = .ok .hardwareInit ∧ decode ⟨.request, [0x25, 1]⟩ = .ok (.setRs true) ∧
    decode ⟨.request, [0x26, 1]⟩ = .ok (.setRw true) ∧ decode ⟨.request, [0x27, 1]⟩ = .ok (.setBacklight true) ∧
    decode ⟨.request, [0x28, 1, 2]⟩ = .ok (.setEnable true 2) ∧ decode ⟨.request, [0x29, 0xA]⟩ = .ok (.setData 0xA) ∧
    decode ⟨.request, [0x2A]⟩ = .ok .writeStateToBus ∧ decode ⟨.request, [0x2B]⟩ = .ok .encode := by decide

theorem test_decode_engine :
    decode ⟨.request, [0x30, 0, 0x3, 0]⟩ = .ok (.writeNibble false 0x3 0) ∧
    decode ⟨.request, [0x31, 1, 0x41, 2]⟩ = .ok (.writeByte true 0x41 2) ∧
    decode ⟨.request, [0x32, 1, 0]⟩ = .ok (.readByte true 0) ∧ decode ⟨.request, [0x33, 0]⟩ = .ok (.busyPoll 0) ∧
    decode ⟨.request, [0x34, 1, 1000, 0]⟩ = .ok (.readBytes true 1000 0) := by decide

/-- R71 to R75 (V-L2-ENC4, ENC9, ENC13 and the power-up frame). -/
theorem test_decode_frames :
    decode ⟨.busFrame .genericPcf8574t, [0x4D]⟩ = .ok (.frameGeneric 0x4 true true false true) ∧
    decode ⟨.busFrame .adafruitMcp23008, [0x09, 0x1C]⟩ = .ok (.frameAdafruit false 0x3 true false) ∧
    decode ⟨.busFrame .adafruitMcp23008, [0x00, 0x00]⟩ = .ok .powerupAdafruit ∧
    decode ⟨.busFrame .dualPcf8574t, [0x06]⟩ = .ok (.frameDual 0x0 false true true false) ∧
    decode ⟨.busRead, []⟩ = .ok .readNibbleGeneric := by decide

/-- R79 to R89. -/
theorem test_decode_lcd :
    decode ⟨.lcdCommand 0, [0x01]⟩ = .ok (.clearDisplay 0) ∧ decode ⟨.lcdCommand 1, [0x02]⟩ = .ok (.returnHome 1) ∧
    decode ⟨.lcdCommand 0, [0x06]⟩ = .ok (.entryModeSet 0 true false) ∧
    decode ⟨.lcdCommand 0, [0x0C]⟩ = .ok (.displayControl 0 true false false) ∧
    decode ⟨.lcdCommand 0, [0x1C]⟩ = .ok (.cursorDisplayShift 0 true) ∧
    decode ⟨.lcdCommand 0, [0x28]⟩ = .ok (.functionSet 0) ∧
    decode ⟨.lcdCommand 0, [0x48]⟩ = .ok (.setCgramAddr 0 1) ∧
    decode ⟨.lcdCommand 1, [0xE7]⟩ = .ok (.setDdramAddr 1 0x67) ∧
    decode ⟨.lcdNibble 0, [0x3]⟩ = .ok (.handshakeNibble3 0) ∧
    decode ⟨.lcdNibble 0, [0x2]⟩ = .ok (.handshakeNibble2 0) ∧
    decode ⟨.lcdData 0, [0x48]⟩ = .ok (.dataWrite 0 0x48) ∧ decode ⟨.lcdRead false 0, []⟩ = .ok (.statusRead 0) ∧
    decode ⟨.lcdRead true 0, []⟩ = .ok (.dataRead 0) := by decide

/-- Words as spec/opcode_table.json numbers them. -/
theorem test_table_words :
    decodeTableWord 8 0x01 = some .init ∧ decodeTableWord 8 0x0D = some (.createChar 0 ⟨0, 0, 0, 0, 0, 0, 0, 0⟩) ∧
    decodeTableWord 8 0x34 = some (.readBytes false 0 0) ∧ decodeTableWord 8 0x40 = some (.setCgramAddr 0 0) ∧
    decodeTableWord 16 0x0918 = some (.frameAdafruit false 0x3 false false) ∧
    decodeTableWord 16 0x0000 = some .powerupAdafruit ∧ decodeTableWord 4 0x3 = some (.handshakeNibble3 0) := by decide

/-- R97 (V-L3 P5 step 6, P1 step 4, P4 step 5). -/
theorem test_pseudo_instructions :
    encode (pseudoCommand 0 0x01) = ⟨.request, [0x31, 0, 0x01, 0x00]⟩ ∧
    encode (pseudoData 1 0x41) = ⟨.request, [0x31, 1, 0x41, 0x01]⟩ ∧
    encode (pseudoCursor true) = ⟨.request, [0x05, 1]⟩ ∧ encode (pseudoDisplay false) = ⟨.request, [0x07, 0]⟩ ∧
    encode (pseudoBacklight false) = ⟨.request, [0x0F, 0]⟩ := by decide

/-- R231. -/
theorem test_error_codes :
    [OpError.busError 7, .rowOutOfRange 2, .columnOutOfRange 16, .unsupportedDisplayType, .readNotSupported,
      .badControllerId 1].map errorCode = [1, 2, 3, 4, 5, 6] ∧ resultCode (.value .ok) = 0 := by decide

/-! ### Encoder (95_test_vectors.md L2, Encoder) -/

/-- V-L2-ENC2, ENC3, ENC4. -/
theorem test_encode_generic :
    encodeFrame .genericPcf8574t ⟨true, true, true, false, true, 0xF⟩ = [0xFF] ∧
    encodeFrame .genericPcf8574t ⟨false, false, false, false, true, 0x5⟩ = [0x58] ∧
    encodeFrame .genericPcf8574t ⟨true, false, true, false, true, 0x4⟩ = [0x4D] := by decide

/-- V-L2-ENC6, ENC7, ENC8, ENC10. -/
theorem test_encode_adafruit :
    encodeFrame .adafruitMcp23008 ⟨true, false, true, false, true, 0xF⟩ = [0x09, 0xFE] ∧
    encodeFrame .adafruitMcp23008 ⟨false, false, false, false, false, 0x1⟩ = [0x09, 0x08] ∧
    encodeFrame .adafruitMcp23008 ⟨false, false, false, false, false, 0x8⟩ = [0x09, 0x40] ∧
    encodeFrame .adafruitMcp23008 ⟨false, false, false, false, true, 0x0⟩ = [0x09, 0x80] := by decide

/-- V-L2-ENC11, ENC12, ENC14, ENC16. -/
theorem test_encode_dual :
    encodeFrame .dualPcf8574t ⟨false, false, true, false, false, 0x0⟩ = [0x04] ∧
    encodeFrame .dualPcf8574t ⟨false, false, false, true, false, 0x0⟩ = [0x02] ∧
    encodeFrame .dualPcf8574t ⟨true, false, false, false, true, 0xF⟩ = [0xF9] ∧
    nibbleOf 0x7A = 0x7 ∧ busyFlag (nibbleOf 0x80) = true := by decide

/-! ### Adapter port -/

/-- V-L2-AD1 to AD6, C27. -/
theorem test_queries :
    (run .defaultBusAddress (fresh m16 [])).results = [.value (.address 0x20)] ∧
    (run .adapterSupportsReads (fresh d40 [])).results = [.value (.bool false)] ∧
    (run .supportsReads (fresh g16 [])).results = [.value (.bool true)] ∧
    (run .controllerCount (fresh d40 [])).results = [.value (.count 2)] ∧
    (run (.isCompatible ⟨2, 16, 0x00, 0x40, 0x10, 0x50⟩) (fresh m16 [])).results = [.value (.bool true)] := by decide +kernel

/-- V-L1-8. -/
theorem test_is_compatible :
    (run (.isCompatible ⟨4, 40, 0x00, 0x40, 0x14, 0x54⟩) (fresh g16 [])).results = [.value (.bool false)] ∧
    (run (.isCompatible ⟨4, 20, 0x00, 0x40, 0x14, 0x54⟩) (fresh d40 [])).results = [.value (.bool false)] ∧
    (run (.isCompatible ⟨4, 40, 0x00, 0x40, 0x00, 0x40⟩) (fresh d40 [])).results = [.value (.bool true)] := by decide +kernel

/-- V-L2-AD7, AD8. -/
theorem test_hardware_init :
    (run .hardwareInit (fresh m16 (acks 1))).trace = [.busWrite 0x20 [0x00, 0x00]] ∧
    (run .hardwareInit (fresh d40 [])).trace = [] := by decide +kernel

/-- V-L2-AD9 to AD13. -/
theorem test_setters :
    (run .encode (run (.setRs true) (fresh g16 []))).results = [.value .ok, .value (.bytes [0x01])] ∧
    (run .encode (run (.setRw true) (fresh g16 []))).results = [.value .ok, .value (.bytes [0x02])] ∧
    (run .encode (run (.setRw true) (fresh d40 []))).results = [.value .ok, .value (.bytes [0x00])] ∧
    (run .encode (run (.setBacklight true) (fresh m16 []))).results = [.value .ok, .value (.bytes [0x09, 0x80])] ∧
    (run .encode (run (.setData 0xA) (fresh d40 []))).results = [.value .ok, .value (.bytes [0xA0])] := by decide +kernel

/-- V-L1-6. -/
theorem test_set_enable :
    (run (.setEnable true 1) (fresh g16 [])).results = [.error (.badControllerId 1)] ∧
    (run (.setEnable true 2) (fresh d40 [])).results = [.error (.badControllerId 2)] ∧
    (run (.setEnable true 2) (fresh d40 [])).sig = SignalState.reset ∧
    encodeFrame .dualPcf8574t (run (.setEnable true 1) (fresh d40 [])).sig = [0x02] := by decide +kernel

/-- V-L2-AD14. -/
theorem test_write_state_to_bus :
    (run .writeStateToBus { fresh m16 (acks 1) with sig := ⟨false, false, true, false, false, 0x3⟩ }).trace =
      [m 0x1C] := by decide +kernel

/-- V-L2-AD16. -/
theorem test_write_state_to_bus_error :
    (run .writeStateToBus (fresh g16 (failsAt 1))).trace = [w 0x00] ∧
    (run .writeStateToBus (fresh g16 (failsAt 1))).results = [.error (.busError 7)] := by decide +kernel

/-! ### Engine port -/

/-- V-L2-EN1. -/
theorem test_write_nibble :
    (run (.writeNibble false 0x3 0) (fresh g16 (acks 2))).trace = [w 0x34, w 0x30] ∧
    (run (.writeNibble false 0x3 0) (fresh g16 (acks 2))).sig = ⟨false, false, false, false, false, 0x3⟩ := by decide +kernel

/-- V-L2-E6. -/
theorem test_write_nibble_bad_controller :
    (run (.writeNibble true 0x5 1) (fresh g16 [])).results = [.error (.badControllerId 1)] ∧
    (run (.writeNibble true 0x5 1) (fresh g16 [])).sig = ⟨true, false, false, false, false, 0x5⟩ ∧
    (run (.writeNibble true 0x5 1) (fresh g16 [])).trace = [] := by decide +kernel

/-- V-L1-2. -/
theorem test_write_byte :
    (run (.writeByte false 0x28 0) (fresh g16 (acks 4))).trace = [w 0x24, w 0x20, w 0x84, w 0x80] ∧
    (run (.writeByte false 0x28 0) (fresh m16 (acks 4))).trace = [m 0x14, m 0x10, m 0x44, m 0x40] := by decide +kernel

/-- V-L2-EN3, E16. -/
theorem test_write_byte_second_controller :
    (run (.writeByte true 0x41 1) (fresh d40 (acks 4))).trace = [w 0x43, w 0x41, w 0x13, w 0x11] ∧
    (run (.writeByte true 0x41 2) (fresh d40 [])).results = [.error (.badControllerId 2)] ∧
    (run (.writeByte true 0x41 2) (fresh d40 [])).sig = ⟨true, false, false, false, false, 0x4⟩ := by decide +kernel

/-- V-L1-3. -/
theorem test_read_byte :
    (run (.readByte true 0) (fresh g16 (byteAnswers 0xD6 0xE6))).trace =
      [w 0xF3, w 0xF7, r, w 0xF3, w 0xF7, r, w 0xF3, w 0xF1] ∧
    (run (.readByte true 0) (fresh g16 (byteAnswers 0xD6 0xE6))).results = [.value (.byte 0xDE)] ∧
    (run (.readByte true 0) (fresh g16 (byteAnswers 0xD6 0xE6))).sig = ⟨true, false, false, false, false, 0xF⟩ := by decide +kernel

/-- V-L2-E4: the fault; then no step. -/
theorem test_read_byte_faults :
    (run (.readByte false 0) (fresh m16 [])).fault = some .unsupportedRead ∧
    (run (.readByte false 0) (fresh m16 [])).results = [] ∧
    fault? (step (run (.readByte false 0) (fresh m16 []))) = some .unsupportedRead := by decide +kernel

/-- V-L1-9. -/
theorem test_busy_poll :
    (run (.busyPoll 0) (inited g16 (polled 0x7A))).trace = [w 0xFA, w 0xFE, r, w 0xFA, w 0xFE, w 0xFA, w 0xF8] ∧
    (run (.busyPoll 0) (inited g16 (polled 0x7A))).results = ok := by decide +kernel

/-- V-L2-EN6, the first iteration: still in progress. -/
theorem test_busy_poll_busy :
    (run (.busyPoll 0) (fresh g16 (polled 0x80))).trace = [w 0xF2, w 0xF6, r, w 0xF2, w 0xF6, w 0xF2, w 0xF0] ∧
    (run (.busyPoll 0) (fresh g16 (polled 0x80))).results = [] ∧
    (run (.busyPoll 0) (fresh g16 (polled 0x80))).job.isSome = true := by decide +kernel

/-- V-L2-EN8. -/
theorem test_read_bytes :
    (run (.readBytes true 1 0) (fresh g16 (polled 0x06 ++ byteAnswers 0xD6 0xE6))).results =
      [.value (.bytes [0xDE])] ∧
    (run (.readBytes true 1 0) (fresh g16 (polled 0x06 ++ byteAnswers 0xD6 0xE6))).trace =
      [w 0xF2, w 0xF6, r, w 0xF2, w 0xF6, w 0xF2, w 0xF0, w 0xF3, w 0xF7, r, w 0xF3, w 0xF7, r, w 0xF3, w 0xF1] := by decide +kernel

/-- V-L2-EN10. -/
theorem test_read_no_bytes : (run (.readBytes true 0 0) (fresh g16 [])).results = [.value (.bytes [])] ∧
    (run (.readBytes true 0 0) (fresh g16 [])).trace = [] := by decide +kernel

/-! ### Host port -/

/-- V-L2-E1. -/
theorem test_uninit_refuses : refusal? (exec .clear (fresh g16 [])) = some .hostOperationBeforeInit ∧
    refusal? (exec .readAddressCounter (fresh m16 [])) = some .hostOperationBeforeInit := by decide +kernel

/-- V-L1-4: the end state (the trace is an obligation). -/
theorem test_init :
    (run .init (fresh g16 (acks 29))).sig = (inited g16 []).sig ∧
    (run .init (fresh g16 (acks 29))).mode0 = initMode ∧ (run .init (fresh g16 (acks 29))).fsm = .ready ∧
    (run .init (fresh g16 (acks 29))).trace.length = 38 ∧ (run .init (fresh g16 (acks 29))).results = ok := by decide +kernel

/-- V-L2-E12. -/
theorem test_init_bus_error :
    (run .init (fresh g16 (failsAt 7))).trace =
      [w 0x34, w 0x30, .delay 5000, w 0x34, w 0x30, .delay 5000, w 0x34, w 0x30, .delay 150, w 0x24] ∧
    (run .init (fresh g16 (failsAt 7))).fsm = .uninit ∧ (run .init (fresh g16 (failsAt 7))).mode0 = ModeBytes.reset ∧
    (run .init (fresh g16 (failsAt 7))).sig = ⟨false, false, true, false, false, 0x2⟩ := by decide +kernel

/-- V-L2-C1, E10. -/
theorem test_clear :
    (run .clear (inited g16 (acks 4))).trace = [w 0x0C, w 0x08, w 0x1C, w 0x18, .delay 2000] ∧
    (run .clear (inited d40 (failsAt 5))).trace = [w 0x0C, w 0x08, w 0x1C, w 0x18, .delay 2000, w 0x0A] ∧
    (run .clear (inited d40 (failsAt 5))).sig.en1 = true := by decide +kernel

/-- V-L2-C15: home from ACTIVE 1. -/
theorem test_home :
    (run .home { inited d40 (acks 8) with active := 1 }).active = 0 ∧
    (run .home { inited d40 (acks 8) with active := 1 }).trace =
      [w 0x0C, w 0x08, w 0x2C, w 0x28, .delay 2000, w 0x0A, w 0x08, w 0x2A, w 0x28, .delay 2000] := by decide +kernel

/-- V-L1-5. -/
theorem test_set_cursor :
    (run (.setCursor 39 3) (inited d40 (acks 4))).trace = [w 0xEA, w 0xE8, w 0x7A, w 0x78, .delay 39] ∧
    (run (.setCursor 39 3) (inited d40 (acks 4))).active = 1 ∧
    (run (.setCursor 3 1) (inited g16 (acks 4))).trace = [w 0xCC, w 0xC8, w 0x3C, w 0x38, .delay 39] := by decide +kernel

/-- V-L1-7. -/
theorem test_set_cursor_range :
    (run (.setCursor 16 1) (inited g16 [])).results = [.error (.columnOutOfRange 16)] ∧
    (run (.setCursor 16 2) (inited g16 [])).results = [.error (.rowOutOfRange 2)] ∧
    (run (.setCursor 15 1) (inited g16 (acks 4))).trace = [w 0xCC, w 0xC8, w 0xFC, w 0xF8, .delay 39] := by decide +kernel

/-- V-L2-C4. -/
theorem test_show_display :
    (run (.showDisplay false) (inited g16 (acks 4))).trace = [w 0x0C, w 0x08, w 0x8C, w 0x88, .delay 39] ∧
    (run (.showDisplay false) (inited g16 (acks 4))).mode0.control = some 0x00 := by decide +kernel

/-- V-L2-C16, E11. -/
theorem test_show_cursor :
    (run (.showCursor true) { inited d40 (acks 8) with active := 1 }).trace =
      [w 0x0C, w 0x08, w 0xCC, w 0xC8, .delay 39, w 0x0A, w 0x08, w 0xEA, w 0xE8, .delay 39] ∧
    (run (.showCursor true) { inited d40 (acks 8) with active := 1 }).mode1.control = some 0x06 ∧
    (run (.showCursor true) (inited g16 (failsAt 3))).mode0.control = some 0x06 := by decide +kernel

/-- V-L2-C6. -/
theorem test_blink_cursor :
    (run (.blinkCursor true) (inited g16 (acks 4))).trace = [w 0x0C, w 0x08, w 0xDC, w 0xD8, .delay 39] ∧
    (run (.blinkCursor true) (inited g16 (acks 4))).mode0.control = some 0x05 := by decide +kernel

/-- V-L2-C7, C8. -/
theorem test_scroll :
    (run .scrollLeft (inited g16 (acks 4))).trace = [w 0x1C, w 0x18, w 0x8C, w 0x88, .delay 39] ∧
    (run .scrollRight (inited g16 (acks 4))).trace = [w 0x1C, w 0x18, w 0xCC, w 0xC8, .delay 39] := by decide +kernel

/-- V-L2-C9, C10, C11. -/
theorem test_entry_mode :
    (run .leftToRight (inited g16 (acks 4))).trace = [w 0x0C, w 0x08, w 0x6C, w 0x68, .delay 39] ∧
    (run .rightToLeft (inited g16 (acks 4))).mode0.entry = some 0x00 ∧
    (run (.autoscroll true) (inited g16 (acks 4))).trace = [w 0x0C, w 0x08, w 0x7C, w 0x78, .delay 39] ∧
    (run (.autoscroll true) (inited g16 (acks 4))).mode0.entry = some 0x03 := by decide +kernel

/-- V-L2-C12: the address and the first three rows. -/
theorem test_create_char :
    (run (.createChar 1 ⟨0x00, 0x0A, 0x1F, 0x1F, 0x0E, 0x04, 0x00, 0x00⟩) (inited g16 (acks 36))).trace.take 20 =
      [w 0x4C, w 0x48, w 0x8C, w 0x88, .delay 39, w 0x0D, w 0x09, w 0x0D, w 0x09, .delay 43,
       w 0x0D, w 0x09, w 0xAD, w 0xA9, .delay 43, w 0x1D, w 0x19, w 0xFD, w 0xF9, .delay 43] := by decide +kernel

/-- V-L2-C20, C22. -/
theorem test_print :
    (run (.print [0x48, 0x69]) (inited g16 (acks 8))).trace =
      [w 0x4D, w 0x49, w 0x8D, w 0x89, .delay 43, w 0x6D, w 0x69, w 0x9D, w 0x99, .delay 43] ∧
    (run (.print []) (inited g16 [])).trace = [] := by decide +kernel

/-- V-L2-C18, C21. -/
theorem test_print_elsewhere :
    (run (.print [0x41]) { inited d40 (acks 4) with active := 1 }).trace =
      [w 0x4B, w 0x49, w 0x1B, w 0x19, .delay 43] ∧
    (run (.print [0x48]) (inited m16 (acks 4))).trace = [m 0xA6, m 0xA2, m 0xC6, m 0xC2, .delay 43] := by decide +kernel

/-- V-L2-C20, E14. -/
theorem test_backlight :
    (run (.backlight false) { inited g16 (acks 1) with sig := ⟨true, false, false, false, true, 0x9⟩ }).trace =
      [w 0x91] ∧
    (run (.backlight false) (inited g16 (failsAt 1))).trace = [w 0x20] ∧
    (run (.backlight false) (inited g16 (failsAt 1))).sig.bl = false := by decide +kernel

/-- V-L2-C24: the busy bit is masked off. -/
theorem test_read_address_counter :
    (run .readAddressCounter (inited g16 (polled 0x00 ++ byteAnswers 0xC0 0xB0))).results = [.value (.byte 0x4B)] ∧
    (run .readAddressCounter (inited g16 (polled 0x00 ++ byteAnswers 0xC0 0xB0))).trace =
      [w 0xFA, w 0xFE, r, w 0xFA, w 0xFE, w 0xFA, w 0xF8, w 0xFA, w 0xFE, r, w 0xFA, w 0xFE, r, w 0xFA, w 0xF8] := by decide +kernel

/-- V-L2-C25, C26, E3. -/
theorem test_read_device_data :
    (run (.readDeviceData 1) (inited g16 (polled 0x00 ++ byteAnswers 0xD6 0xE6))).results =
      [.value (.bytes [0xDE])] ∧
    (run (.readDeviceData 0) (inited g16 [])).results = [.value (.bytes [])] ∧
    (run (.readDeviceData 1) (inited m16 [])).results = [.error .readNotSupported] := by decide +kernel

/-! ### The rows that run by themselves -/

/-- V-L2-ENC4, ENC9, ENC13: the bytes of the row go on the bus. -/
theorem test_frames :
    (run (.frameGeneric 0x4 true true false true) (fresh g16 (acks 1))).trace = [w 0x4D] ∧
    (run (.frameAdafruit false 0x3 true false) (fresh m16 (acks 1))).trace = [m 0x1C] ∧
    (run .powerupAdafruit (fresh m16 (acks 1))).trace = [.busWrite 0x20 [0x00, 0x00]] ∧
    (run (.frameDual 0x0 false true true false) (fresh d40 (acks 1))).trace = [w 0x06] := by decide +kernel

/-- The example of R150: the row reads its nibble as a poll does. -/
theorem test_read_nibble :
    (run .readNibbleGeneric (inited g16 (polled 0x7A))).results = [.value (.nibble 0x7)] ∧
    (run .readNibbleGeneric (inited g16 (polled 0x7A))).trace =
      [w 0xFA, w 0xFE, r, w 0xFA, w 0xFE, w 0xFA, w 0xF8] := by decide +kernel

/-- The commands of V-L1-4 and V-L2-C7, C12, V-L1-5, each by itself. -/
theorem test_commands :
    (run (.clearDisplay 0) (fresh g16 (acks 4))).trace = [w 0x04, w 0x00, w 0x14, w 0x10, .delay 2000] ∧
    (run (.returnHome 1) (fresh d40 (acks 4))).trace = [w 0x02, w 0x00, w 0x22, w 0x20, .delay 2000] ∧
    (run (.cursorDisplayShift 0 false) (inited g16 (acks 4))).trace = [w 0x1C, w 0x18, w 0x8C, w 0x88, .delay 39] ∧
    (run (.setCgramAddr 0 1) (inited g16 (acks 4))).trace = [w 0x4C, w 0x48, w 0x8C, w 0x88, .delay 39] ∧
    (run (.setDdramAddr 1 0x67) (inited d40 (acks 4))).trace = [w 0xEA, w 0xE8, w 0x7A, w 0x78, .delay 39] := by decide +kernel

/-- The mode commands of V-L1-4, each by itself. -/
theorem test_mode_commands :
    (run (.functionSet 0) (fresh g16 (acks 4))).trace = [w 0x24, w 0x20, w 0x84, w 0x80, .delay 39] ∧
    (run (.functionSet 0) (fresh g16 (acks 4))).mode0 = ModeBytes.reset ∧
    (run (.displayControl 0 true false false) (fresh g16 (acks 4))).trace = [w 0x04, w 0x00, w 0xC4, w 0xC0, .delay 39] ∧
    (run (.displayControl 0 true false false) (fresh g16 (acks 4))).mode0 = ModeBytes.reset ∧
    (run (.entryModeSet 0 true false) (fresh g16 (acks 4))).trace = [w 0x04, w 0x00, w 0x64, w 0x60, .delay 39] ∧
    (run (.entryModeSet 0 true false) (fresh g16 (acks 4))).mode0 = ModeBytes.reset := by decide +kernel

/-- R189, R29: in `READY` the mode commands are shadowed, controller by controller. -/
theorem test_mode_commands_ready :
    (run (.displayControl 1 false true true) (inited d40 (acks 4))).mode1 = ⟨some 0x08, some 0x03, some 0x02⟩ ∧
    (run (.displayControl 1 false true true) (inited d40 (acks 4))).mode0 = initMode ∧
    (run (.entryModeSet 0 false true) (inited g16 (acks 4))).mode0 = ⟨some 0x08, some 0x04, some 0x01⟩ := by
  decide +kernel

/-- V-L2-EN1, V-L1-4 step 3b, V-L2-C20, V-L1-3. -/
theorem test_nibbles_and_transfers :
    (run (.handshakeNibble3 0) (fresh g16 (acks 2))).trace = [w 0x34, w 0x30] ∧
    (run (.handshakeNibble2 0) (fresh g16 (acks 2))).trace = [w 0x24, w 0x20] ∧
    (run (.dataWrite 0 0x48) (inited g16 (acks 4))).trace = [w 0x4D, w 0x49, w 0x8D, w 0x89, .delay 43] ∧
    (run (.dataRead 0) (fresh g16 (byteAnswers 0xD6 0xE6))).results = [.value (.byte 0xDE)] ∧
    (run (.statusRead 0) (inited g16 (byteAnswers 0xC0 0xB0))).results = [.value (.byte 0xCB)] := by decide +kernel

/-! ### The step -/

/-- A step runs the request the host presents, as the first after reset (V-L2-AD13). -/
theorem test_step_first_instruction :
    (nextState? (step (State.reset.withFetchWord 8 0x2B))).map State.results = some [.value (.bytes [0x00])] := by decide +kernel

/-- R95, R242: the run stops at a packet that has no meaning. -/
theorem test_step_refuses :
    refusal? (step { fresh g16 [] with requests := [⟨.request, [0xFF]⟩] }) =
      some (.badRequest (.unassignedOpc 0xFF)) := by decide +kernel

/-! ### Witnesses: for each obligation with hypotheses, states and operands that meet them, at boundary values -/

theorem held_inited (c : Configuration) (h : c.adapter = .dualPcf8574t ∨ controllerCountOf c.adapter = 1)
    (a : List BusAnswer) : ModesHeld (inited c a) := by
  refine ⟨⟨rfl, rfl, rfl⟩, fun h2 => ?_⟩
  rcases h with h | h
  · simp [inited, h, ModeHeld, initMode]
  · simp [inited, fresh, State.resetWith, h] at h2

theorem inv_fresh_g16 (a : List BusAnswer) : BlockInv (fresh g16 a) where
  geometry := by show geometryWellFormed g16.adapter g16.geometry = true; decide
  active := by show (0 : BitVec 1).toNat < 1; decide
  rw := nofun
  en1 := fun _ => rfl
  mode1 := fun _ => rfl
  shape0 := ⟨.inl rfl, nofun, nofun⟩
  shape1 := ⟨.inl rfl, nofun, nofun⟩
  held := nofun
  compatible := nofun
  reading := nofun
  faulted := nofun

theorem inv_inited_d40 (a : List BusAnswer) : BlockInv (inited d40 a) where
  geometry := by show geometryWellFormed d40.adapter d40.geometry = true; decide
  active := by show (0 : BitVec 1).toNat < 2; decide
  rw := fun _ => rfl
  en1 := nofun
  mode1 := nofun
  shape0 := ⟨.inr rfl, fun v h => by cases h; decide, fun v h => by cases h; decide⟩
  shape1 := ⟨.inr rfl, fun v h => by cases h; decide, fun v h => by cases h; decide⟩
  held := fun _ => held_inited _ (.inl rfl) _
  compatible := fun _ => by show isCompatibleWith d40.adapter d40.geometry = true; decide
  reading := nofun
  faulted := nofun

theorem test_witness_ResetLeavesTheSpecifiedRegisters :
    configure .genericPcf8574t none g16.geometry = .ok (State.resetWith g16) ∧
    configure .adafruitMcp23008 (some 0x7F) g16.geometry = .ok (State.resetWith ⟨.adafruitMcp23008, 0x7F, g16.geometry⟩) ∧
    configure .genericPcf8574t (some 0x80) g16.geometry = .error .badBusAddress ∧
    configure .genericPcf8574t none ⟨2, 65, 0x00, 0x40, 0, 0⟩ = .error .badGeometry := by decide +kernel

theorem test_witness_DecodeOfEncodeIsTheInstruction :
    (Instr.createChar 7 default).wellFormed = true ∧
    decode (encode (.createChar 7 default)) = .ok (.createChar 7 default) := by decide

theorem test_witness_DecodedInstructionsAreWellFormedAndReencode :
    decode ⟨.request, [0x04, 255, 255]⟩ = .ok (.setCursor 255 255) ∧
    (∀ c, (Packet.mk .request [0x04, 255, 255]).channel ≠ .lcdCommand c) ∧
    decode ⟨.busFrame .adafruitMcp23008, [0x09, 0xFE]⟩ = .ok (.frameAdafruit true 0xF true true) := by
  refine ⟨by decide, nofun, by decide⟩

/-- The first clause: no well-formed instruction has the encoding `write_nibble 0, 0x10, 0`. -/
theorem test_witness_NoInstructionHasThisEncoding :
    ∀ i : Instr, i.wellFormed = true → encode i ≠ ⟨.request, [0x30, 0, 0x10, 0]⟩ := by
  intro i _ h
  cases i <;> simp [encode, requestPacket, commandPacket] at h
  next nib _ => have := nib.isLt; omega

theorem test_witness_IllegalRequestsAreRefused :
    ∀ fields, fields ∈ [[0], [0x13], [0x1F], [0x2C], [0x2F], [0x35, 7], [0x29, 0x10], [0x05, 2], [0x27, 2],
        [0x04, 256, 0], [0x04, 0, 256], [0x28, 2, 0], [0x30, 0, 0x10, 0], [0x31, 0, 256, 0], [0x32, 2, 0], [0x33, 256],
      [0x34, 2, 1, 0], [0x0E, 0x48, 256], [0x23, 2, 16, 0, 64, 16, 256], [0x0D, 0, 256, 0, 0, 0, 0, 0, 0, 0], [0x0D, 8, 0, 0, 0, 0, 0, 0, 0, 255], [0x0D, 255, 0, 0, 0, 0, 0, 0, 0, 0]] →
      (fresh g16 []).fault = none ∧ (fresh g16 []).job = none ∧
      (refusal? (step { fresh g16 [] with requests := [⟨.request, fields⟩] })).isSome = true := by decide +kernel

theorem test_witness_StepRunsTheDecodedRequest :
    let s := { fresh g16 [] with requests := [⟨.request, [0x12]⟩] }
    s.fault = none ∧ s.job = none ∧ decode ⟨.request, [0x12]⟩ = .ok .supportsReads ∧
    (nextState? (step s)).map State.results = some [.value (.bool true)] := by decide +kernel

/-- A poll in progress on controller 0. -/
def polling : ReadJob := ⟨.busyPoll, false, 0, 0, []⟩

theorem test_witness_StepInAFaultOrAnOperationInProgress :
    { fresh m16 [] with fault := some Fault.unsupportedRead }.fault = some .unsupportedRead ∧
    (fresh g16 []).fault = none ∧ { fresh g16 (polled 0x80) with job := some polling }.job.isSome = true := by decide

theorem test_witness_WriteStateToBusSendsOneFrame :
    answerAt (fresh g16 (acks 1)) 0 = .ok 0 ∧ answerAt (fresh g16 (failsAt 1)) 0 = .err 7 := by decide

theorem test_witness_HardwareInitWritesIodirOnTheMcp23008Only :
    (fresh g16 []).cfg.adapter ≠ .adafruitMcp23008 ∧ (fresh m16 []).cfg.adapter = .adafruitMcp23008 ∧
    answerAt (fresh m16 (acks 1)) 0 = .ok 0 ∧ answerAt (fresh m16 (failsAt 1)) 0 = .err 7 := by decide

theorem test_witness_WriteNibbleStrobesTheEnableLine :
    (0 : Byte).toNat < count (fresh g16 []) ∧ (1 : Byte).toNat < count (fresh d40 []) ∧
    Acks (fresh d40 (acks 2)) 2 ∧ answerAt (fresh d40 (failsAt 1)) 0 = .err 7 ∧
    answerAt (fresh d40 (failsAt 2)) 0 = .ok 0 ∧ answerAt (fresh d40 (failsAt 2)) 1 = .err 7 :=
  ⟨by decide, by decide, acks_of_script rfl (le_refl 2), by decide, by decide, by decide⟩

theorem test_witness_WriteByteSendsFourFrames :
    (1 : Byte).toNat < count (fresh d40 (acks 4)) ∧ Acks (fresh d40 (acks 4)) 4 :=
  ⟨by decide, acks_of_script rfl (le_refl 4)⟩

theorem test_witness_BadControllerIdStagesSignalsAndSendsNothing :
    count (fresh g16 []) ≤ (1 : Byte).toNat ∧ (fresh g16 []).cfg.adapter = .genericPcf8574t ∧
    count (fresh d40 []) ≤ (2 : Byte).toNat := by decide

theorem test_witness_ReadByteSendsSixWritesAndTwoReads :
    (fresh g16 (acks 8)).cfg.adapter = .genericPcf8574t ∧ Acks (fresh g16 (acks 8)) 8 :=
  ⟨rfl, acks_of_script rfl (le_refl 8)⟩

theorem test_witness_BusyPollIterationFollowsTheFlag :
    (fresh g16 []).cfg.adapter = .genericPcf8574t ∧
    (Acks (fresh g16 (polled 0x7F)) 7 ∧ busyIn (fresh g16 (polled 0x7F)) 2 = false) ∧
    (Acks (fresh g16 (polled 0x80)) 7 ∧ busyIn (fresh g16 (polled 0x80)) 2 = true) := by
  unfold Acks; decide +kernel

theorem test_witness_StuckBusyFlagKeepsPolling :
    let s := { fresh g16 (polled 0x80 ++ polled 0xFF) with job := some polling }
    s.cfg.adapter = .genericPcf8574t ∧ s.fault = none ∧ s.job = some polling ∧ polling.c = 0 ∧
    Acks s (7 * 2) ∧ ∀ k, k < 2 → busyIn s (7 * k + 2) = true := by
  unfold Acks; decide +kernel

/-- A read of two data bytes, before its last byte. -/
def reading (k : ReadKind) (n : Nat) (out : List Byte) : ReadJob := ⟨k, true, 0, n, out⟩

theorem test_witness_AReadInProgressTakesItsNextByte :
    (fresh g16 []).cfg.adapter = .genericPcf8574t ∧ (fresh g16 []).fault = none ∧
    busyIn (fresh g16 (polled 0x7F ++ byteAnswers 0xD6 0xE6)) 2 = false ∧
    Acks (fresh g16 (polled 0x7F ++ byteAnswers 0xD6 0xE6)) 15 ∧
    polling.kind = .busyPoll ∧ polling.c = 0 ∧
    1 < (reading .readBytes 2 []).remaining ∧ (reading .readDeviceData 1 [0x41]).remaining ≤ 1 ∧
    (reading .readAddressCounter 1 []).out = [] := by
  unfold Acks; decide +kernel

theorem test_witness_ReadingABytePollsThenReads :
    let s := inited g16 (polled 0x7F ++ byteAnswers 0xD6 0xE6)
    s.cfg.adapter = .genericPcf8574t ∧ s.fsm = .ready ∧ s.active = 0 ∧ Acks s 15 ∧ busyIn s 2 = false := by
  unfold Acks; decide +kernel

theorem test_witness_ReadBytesReturnsTheBytesInOrder :
    let s := inited g16 (polled 0 ++ byteAnswers 0x40 0x10 ++ polled 0 ++ byteAnswers 0x20 0x30)
    s.cfg.adapter = .genericPcf8574t ∧ s.fault = none ∧ s.fsm = .ready ∧ s.active = 0 ∧
    Acks s (15 * (1 + 1)) ∧ ∀ k, k < 1 + 1 → busyIn s (15 * k + 2) = false := by
  unfold Acks; decide +kernel

theorem test_witness_UnsupportedReadFaultsAndStops : (fresh m16 []).cfg.adapter ≠ .genericPcf8574t ∧
    (fresh d40 []).cfg.adapter ≠ .genericPcf8574t ∧
    ((nextState? (exec (.busyPoll 0) (fresh d40 []))).map State.fault = some (some .unsupportedRead) ∧
      (fresh d40 []).fault = none ∧ (encode (.busyPoll 0)).channel = .request) ∧
    ({ fresh g16 (polled 0x80) with job := some polling } : State).job.isSome = true ∧
    (nextState? (step { fresh g16 (polled 0x80) with job := some polling })).isSome = true := by decide +kernel

theorem test_witness_HostOperationsBeforeInitAreRefused :
    gated (.createChar 7 default) = true ∧ (Instr.createChar 7 default).wellFormed = true ∧
    (fresh g16 []).fsm = .uninit := by decide

theorem test_witness_InitRunsTheWholeSequence :
    (isCompatibleWith g16.adapter g16.geometry = true ∧ Acks (fresh g16 (acks 29)) (initTransactions (fresh g16 []))) ∧
    (isCompatibleWith m16.adapter m16.geometry = true ∧ Acks (fresh m16 (acks 30)) (initTransactions (fresh m16 []))) ∧
    (isCompatibleWith d40.adapter d40.geometry = true ∧ Acks (fresh d40 (acks 57)) (initTransactions (fresh d40 []))) :=
  ⟨⟨by decide, acks_of_script rfl (by decide)⟩, ⟨by decide, acks_of_script rfl (by decide)⟩,
    ⟨by decide, acks_of_script rfl (by decide)⟩⟩

theorem test_witness_InitLeavesTheSpecifiedRegisters :
    BlockInv (inited d40 (acks 57)) ∧ isCompatibleWith d40.adapter d40.geometry = true ∧
    Acks (inited d40 (acks 57)) (initTransactions (inited d40 (acks 57))) :=
  ⟨inv_inited_d40 _, by decide, acks_of_script rfl (by decide)⟩

theorem test_witness_InitTraceOfASixteenByTwoDisplay :
    (fresh g16 (acks 29)).cfg = ⟨.genericPcf8574t, 0x27, ⟨2, 16, 0x00, 0x40, 0x10, 0x50⟩⟩ ∧
    (fresh g16 (acks 29)).sig = ⟨false, false, false, false, false, 0x0⟩ ∧ Acks (fresh g16 (acks 29)) 29 :=
  ⟨rfl, rfl, acks_of_script rfl (le_refl 29)⟩

/-- V-L1-8: the geometries that `init` rejects. -/
theorem test_witness_InitRejectsAnIncompatibleGeometry :
    isCompatibleWith .genericPcf8574t ⟨4, 40, 0x00, 0x40, 0x14, 0x54⟩ = false ∧
    isCompatibleWith .dualPcf8574t ⟨2, 16, 0x00, 0x40, 0x10, 0x50⟩ = false ∧
    (fresh ⟨.dualPcf8574t, 0x27, g16.geometry⟩ []).fsm = .uninit ∧
    (nextState? (step { fresh ⟨.dualPcf8574t, 0x27, g16.geometry⟩ [] with requests := [⟨.request, [0x01]⟩] })).isSome =
      true := by decide +kernel

/-- The hypotheses of the fan-out statements: `FSM = READY`, the mode bytes held, the bus acknowledging; for `clear`,
`home`, `show_display`, `show_cursor`, `blink_cursor`, the scrolls and the entry modes. -/
theorem test_witness_FanOuts :
    ((inited g16 (acks 4)).fsm = .ready ∧ ModesHeld (inited g16 (acks 4)) ∧
      Acks (inited g16 (acks 4)) (4 * count (inited g16 (acks 4)))) ∧
    ((inited d40 (acks 8)).fsm = .ready ∧ ModesHeld (inited d40 (acks 8)) ∧
      Acks (inited d40 (acks 8)) (4 * count (inited d40 (acks 8)))) :=
  ⟨⟨rfl, held_inited _ (.inr rfl) _, acks_of_script rfl (by decide)⟩,
    ⟨rfl, held_inited _ (.inl rfl) _, acks_of_script rfl (by decide)⟩⟩

theorem test_witness_ClearReachesEveryController :
    (inited d40 (acks 8)).fsm = .ready ∧ Acks (inited d40 (acks 8)) (4 * count (inited d40 (acks 8))) :=
  ⟨rfl, acks_of_script rfl (by decide)⟩

theorem test_witness_HomeReachesEveryControllerAndResetsActive :
    (inited d40 (acks 8)).fsm = .ready ∧ Acks (inited d40 (acks 8)) (4 * count (inited d40 (acks 8))) :=
  ⟨rfl, acks_of_script rfl (by decide)⟩

theorem test_witness_SetCursorChecksRowThenColumn :
    (inited g16 []).fsm = .ready ∧ (inited g16 []).cfg.geometry.rows.toNat ≤ (2 : Byte).toNat ∧
    (1 : Byte).toNat < (inited g16 []).cfg.geometry.rows.toNat ∧
    (inited g16 []).cfg.geometry.cols.toNat ≤ (16 : Byte).toNat := by decide

theorem test_witness_SetCursorAddressesTheRowsController :
    (inited d40 (acks 4)).fsm = .ready ∧ geometryWellFormed d40.adapter d40.geometry = true ∧
    (3 : Byte).toNat < d40.geometry.rows.toNat ∧ (39 : Byte).toNat < d40.geometry.cols.toNat ∧
    Acks (inited d40 (acks 4)) 4 :=
  ⟨rfl, by decide, by decide, by decide, acks_of_script rfl (le_refl 4)⟩

theorem test_witness_ShowDisplaySetsTheDisplayFlagEverywhere :
    (inited d40 (acks 8)).fsm = .ready ∧ ModesHeld (inited d40 (acks 8)) ∧
    Acks (inited d40 (acks 8)) (4 * count (inited d40 (acks 8))) := test_witness_FanOuts.2

theorem test_witness_CursorFlagsFollowTheActiveController :
    let s := { inited d40 (acks 8) with active := 1 }
    s.fsm = .ready ∧ ModesHeld s ∧ Acks s (4 * count s) :=
  ⟨rfl, held_inited d40 (.inl rfl) (acks 8), acks_of_script rfl (by decide)⟩

theorem test_witness_ScrollsSendTheShiftCommand :
    (inited g16 (acks 4)).fsm = .ready ∧ Acks (inited g16 (acks 4)) (4 * count (inited g16 (acks 4))) :=
  ⟨rfl, acks_of_script rfl (by decide)⟩

theorem test_witness_EntryModeOperationsUpdateEveryController :
    (inited g16 (acks 4)).fsm = .ready ∧ ModesHeld (inited g16 (acks 4)) ∧
    Acks (inited g16 (acks 4)) (4 * count (inited g16 (acks 4))) := test_witness_FanOuts.1

theorem test_witness_ModeIsWrittenBeforeTheCommand :
    (inited d40 (failsAt 5)).fsm = .ready ∧ ModesHeld (inited d40 (failsAt 5)) ∧
    (inited d40 (failsAt 5)).cfg.adapter = .dualPcf8574t ∧ Acks (inited d40 (failsAt 5)) 4 ∧
    answerAt (inited d40 (failsAt 5)) 4 = .err 7 :=
  ⟨rfl, held_inited d40 (.inl rfl) _, rfl, by unfold Acks; decide, by decide⟩

theorem test_witness_CreateCharSendsTheGlyphToEveryController :
    (inited d40 (acks 72)).fsm = .ready ∧ (7 : Byte).toNat < 8 ∧
    Acks (inited d40 (acks 72)) (36 * count (inited d40 (acks 72))) ∧ 8 ≤ (8 : Byte).toNat :=
  ⟨rfl, by decide, acks_of_script rfl (by decide), by decide⟩

theorem test_witness_PrintSendsEachByteToTheActiveController :
    let s := { inited d40 (acks 8) with active := 1 }
    s.fsm = .ready ∧ s.active.toNat < count s ∧ Acks s (4 * [(0x48 : Byte), 0x69].length) :=
  ⟨rfl, by decide, acks_of_script rfl (by decide)⟩

theorem test_witness_BacklightSendsOneFrame :
    (inited m16 (acks 1)).fsm = .ready ∧ answerAt (inited m16 (acks 1)) 0 = .ok 0 ∧
    answerAt (inited m16 (failsAt 1)) 0 = .err 7 := by decide

theorem test_witness_HostReadsReportReadNotSupported :
    (inited m16 []).fsm = .ready ∧ (inited m16 []).cfg.adapter ≠ .genericPcf8574t := by decide

theorem test_witness_FrameRowsPutTheirOwnBytesOnTheBus :
    (frameAdapter .powerupAdafruit = some .adafruitMcp23008 ∧ (fresh g16 []).cfg.adapter ≠ .adafruitMcp23008) ∧
    ((fresh g16 (acks 1)).cfg.adapter = .genericPcf8574t ∧ Acks (fresh g16 (acks 1)) 1) ∧
    ((fresh m16 (acks 1)).cfg.adapter = .adafruitMcp23008 ∧ Acks (fresh m16 (acks 1)) 1) ∧
    ((fresh d40 (acks 1)).cfg.adapter = .dualPcf8574t ∧ Acks (fresh d40 (acks 1)) 1) :=
  ⟨by decide, ⟨rfl, acks_of_script rfl (le_refl 1)⟩, ⟨rfl, acks_of_script rfl (le_refl 1)⟩,
    ⟨rfl, acks_of_script rfl (le_refl 1)⟩⟩

theorem test_witness_ReadNibbleRowTakesTheHighHalf :
    (fresh g16 (polled 0x7A)).cfg.adapter = .genericPcf8574t ∧ Acks (fresh g16 (polled 0x7A)) 7 := by
  unfold Acks; decide

theorem test_witness_CommandRowsSendTheirByte :
    (1 : Byte).toNat < count (fresh d40 (acks 4)) ∧ Acks (fresh d40 (acks 4)) 4 :=
  ⟨by decide, acks_of_script rfl (le_refl 4)⟩

theorem test_witness_ModeCommandRowsShadowTheirFlags :
    (1 : Byte).toNat < count (inited d40 (acks 4)) ∧ Acks (inited d40 (acks 4)) 4 ∧
    (inited d40 (acks 4)).fsm = .ready ∧ (fresh d40 (acks 4)).fsm = .uninit ∧ Acks (fresh d40 (acks 4)) 4 :=
  ⟨by decide, acks_of_script rfl (le_refl 4), rfl, rfl, acks_of_script rfl (le_refl 4)⟩

theorem test_witness_NibbleAndTransferRowsComplete :
    (0 : Byte).toNat < count (fresh g16 (acks 8)) ∧ Acks (fresh g16 (acks 8)) 2 ∧ Acks (fresh g16 (acks 8)) 4 ∧
    (fresh g16 (acks 8)).cfg.adapter = .genericPcf8574t ∧ Acks (fresh g16 (acks 8)) 8 :=
  ⟨by decide, acks_of_script rfl (by decide), acks_of_script rfl (by decide), rfl, acks_of_script rfl (le_refl 8)⟩

theorem test_witness_RowsFailAsTheEngineDoes :
    count (fresh m16 []) ≤ (1 : Byte).toNat ∧ (fresh m16 []).cfg.adapter ≠ .genericPcf8574t ∧
    (fresh g16 []).cfg.adapter = .genericPcf8574t ∧ count (fresh g16 []) ≤ (1 : Byte).toNat := by decide

/-- SignalInstructionsKeepModeActiveAndFsm, ModeInstructionsKeepEverythingElse, BacklightPersists: an instruction that
completes, for each group they name. -/
theorem test_witness_Frames :
    (nextState? (exec .home (inited g16 (acks 4)))).isSome = true ∧
    (nextState? (exec (.showCursor true) (inited g16 (failsAt 2)))).isSome = true ∧
    (nextState? (exec (.autoscroll true) (inited d40 (acks 8)))).isSome = true ∧
    (nextState? (exec (.functionSet 1) (inited d40 (acks 4)))).isSome = true ∧
    (touchesSignalsOnly (.writeByte true 0x41 1) = true ∧ setsBacklight (.writeByte true 0x41 1) = false ∧
      (nextState? (exec (.writeByte true 0x41 1) (inited d40 (acks 4)))).isSome = true) := by decide +kernel

/-- `init` to its end, and one that fails after it has written controller 0's function byte. -/
theorem test_witness_OnlyInitChangesTheFsmOrFillsMode :
    let s (a : List BusAnswer) : State := { fresh g16 a with requests := [⟨.request, [0x01]⟩] }
    (nextState? (step (s (acks 29)))).map State.fsm = some .ready ∧ (s (acks 29)).fsm = .uninit ∧
    (nextState? (step (s (failsAt 9)))).map (fun t => (t.fsm, t.mode0.function)) = some (.uninit, some 0x08) := by
  decide +kernel

theorem test_witness_OneResultPerOperation :
    (fresh g16 []).job = none ∧ (fresh g16 []).fault = none ∧
    (nextState? (exec .encode (fresh g16 []))).isSome = true ∧
    (nextState? (exec (.busyPoll 0) (fresh g16 (polled 0x80)))).map (fun t => t.job.isSome) = some true ∧
    (nextState? (step { fresh g16 (polled 0x7F) with job := some polling })).map State.results = some [.value .ok] := by
  decide +kernel

theorem test_witness_EveryOtherInstructionHasAnEffect :
    (Instr.print [0x41]).wellFormed = true ∧ (gated (.print [0x41]) = true → (inited m16 []).fsm = .ready) ∧
    (∀ a, frameAdapter .powerupAdafruit = some a → (inited m16 []).cfg.adapter = a) :=
  ⟨by decide, fun _ => rfl, fun a h => by cases h; rfl⟩

/-- TheTraceOnlyGrows, EveryEventIsAllowed, EveryStepKeepsTheInvariant: a step to a next state, from a state that meets the
invariant. -/
theorem test_witness_EveryStep :
    let s := { fresh g16 (acks 29) with requests := [⟨.request, [0x01]⟩] }
    BlockInv s ∧ (nextState? (step s)).map (fun t => t.trace.length) = some 38 := by
  refine ⟨?_, by decide +kernel⟩
  have h := inv_fresh_g16 (acks 29)
  exact ⟨h.geometry, h.active, h.rw, h.en1, h.mode1, h.shape0, h.shape1, h.held, h.compatible, h.reading, h.faulted⟩

/-- A step whose third transaction fails, and one whose transactions all succeed. -/
theorem test_witness_AnOperationEndsAtTheFirstFailedTransaction :
    let s (a : List BusAnswer) : State := { inited g16 a with requests := [⟨.request, [0x02]⟩] }
    (nextState? (step (s (failsAt 3)))).map State.results = some [.error (.busError 7)] ∧
    (nextState? (step (s (failsAt 3)))).map State.txn = some 3 ∧
    (nextState? (step (s (acks 4)))).map State.results = some ok := by decide +kernel

theorem test_witness_NewInstancesMeetTheInvariant :
    configure .dualPcf8574t (some 0x27) d40.geometry = .ok (State.resetWith d40) := by decide +kernel

end Sys2Proof.Tests
end

section
/-! PROOFS of the scope statements (spec 00_scope.md): which configurations are accepted, how a step takes a request,
that the trace only grows, and which events it can hold. -/

namespace Sys2Proof.Machine

open Sys2Proof.Claims

variable {α : Type}

/-! ### Configurations (R8, R32) -/

/-- The rows counted by number and the rows as bytes are the same rows, as a geometry has at most 255. -/
theorem all_rows_iff (g : Geometry) (p : Byte → Bool) :
    ((List.range g.rows.toNat).all fun r => p (BitVec.ofNat 8 r)) = true ↔
      ∀ r : Byte, r.toNat < g.rows.toNat → p r = true := by
  rw [List.all_eq_true]
  constructor
  · intro h r hr
    simpa using h r.toNat (List.mem_range.mpr hr)
  · intro h r hr
    have hlt : r < g.rows.toNat := List.mem_range.mp hr
    have hrows := g.rows.isLt
    exact h _ (by rwa [BitVec.toNat_ofNat, Nat.mod_eq_of_lt (by omega)])

/-- R32 row by row, over bytes. -/
theorem geometryWellFormed_iff (a : Adapter) (g : Geometry) :
    geometryWellFormed a g = true ↔
      1 ≤ g.rows.toNat ∧ g.rows.toNat ≤ 4 ∧ 1 ≤ g.cols.toNat ∧
        ∀ r : Byte, r.toNat < g.rows.toNat → (g.cols.toNat - 1) + (rowOffset g (rowMap a r).2).toNat ≤ 0x7F := by
  have hrows := all_rows_iff g (rowAddressable a g)
  simp only [geometryWellFormed, Bool.and_eq_true, hrows, decide_eq_true_eq, and_assoc]
  simp only [rowAddressable, decide_eq_true_eq]

/-- R8, R32: the two conditions under which `configure` does not refuse. -/
theorem configure_ok_iff (a : Adapter) (addr : Option Nat) (g : Geometry) :
    (∃ s, configure a addr g = .ok s) ↔
      addr.getD (defaultBusAddrOf a).toNat ≤ 0x7F ∧ geometryWellFormed a g = true := by
  unfold configure
  by_cases haddr : 0x7F < addr.getD (defaultBusAddrOf a).toNat
  · simp [haddr]
  · by_cases hgeo : geometryWellFormed a g = true <;> simp [haddr, hgeo, Nat.not_lt.mp haddr]

/-- Settles O1: `configure` checks the address and the geometry, and the second check is R32 row by row. -/
theorem instanceExistsExactlyForWellFormedConfigurations :
    Obligations.InstanceExistsExactlyForWellFormedConfigurations := fun a addr g => by
  rw [configure_ok_iff, geometryWellFormed_iff]

/-! ### Taking a request (R15, R21) -/

theorem runPacket_ok {p : Packet} {i : Instr} (h : decode p = .ok i) (s : State) : runPacket p s = exec i s := by
  rw [runPacket, h]

/-- Settles O8: the step takes the request, and the packet runs as the instruction it decodes to. -/
theorem stepRunsTheDecodedRequest : Obligations.StepRunsTheDecodedRequest :=
  fun _ _ _ _ hfault hjob hreq hdec => (step_request hfault hjob hreq).trans (runPacket_ok hdec _)

/-! ### The trace only grows (R65, R236) -/

/-- An instruction takes back no event, however it ends. -/
theorem exec_trace_append {i : Instr} {s t : State} (h : exec i s = .next t) : ∃ evs, t.trace = s.trace ++ evs := by
  cases exec_cases i s with
  | complete f op exact eq =>
    obtain ⟨_, evs, issued, -⟩ := exact s
    obtain rfl : runOp f op s = t := by simpa [eq, complete] using h
    exact ⟨evs, issued.trace⟩
  | reading k rs c n reads eq =>
    obtain ⟨_, evs, -, -, htrace, -⟩ := jobStep_exact ⟨k, rs, c, n, []⟩ s
    obtain rfl : jobStep ⟨k, rs, c, n, []⟩ s = t := by simpa [eq] using h
    exact ⟨evs, htrace⟩
  | faulted reads eq =>
    obtain rfl : { s with fault := some .unsupportedRead } = t := by simpa [eq] using h
    exact ⟨[], by simp⟩
  | refused r eq => simp [eq] at h

/-- Settles O56: an idle step adds nothing, and an iteration of a read and an instruction only append. -/
theorem theTraceOnlyGrows : Obligations.TheTraceOnlyGrows := by
  intro s t h
  obtain ⟨-, ⟨-, -, rfl⟩ | ⟨j, -, rfl⟩ | ⟨p, rest, i, -, -, -, hexec⟩⟩ := step_cases h
  · exact ⟨[], by simp⟩
  · obtain ⟨_, evs, -, -, htrace, -⟩ := jobStep_exact j s
    exact ⟨evs, htrace⟩
  · exact exec_trace_append (s := { s with requests := rest }) hexec

/-! ### Relations that look at the configuration and the trace only, through every instruction -/

/-- A relation that transfers respect and that sees nothing of a state but its configuration and its trace. -/
structure TraceKept (R : State → State → Prop) : Prop extends TransferKept R where
  same : ∀ s t, t.cfg = s.cfg → t.trace = s.trace → R s t

/-- Every next state of the outcome is related to s. -/
def NextKept (R : State → State → Prop) (s : State) (o : Outcome) : Prop := ∀ t, o = .next t → R s t

namespace NextKept

variable {R : State → State → Prop} {s : State} {o : Outcome}

theorem refused (r : Refusal) : NextKept R s (.refused r) := by
  intro t ht
  cases ht

theorem whenReady (ho : NextKept R s o) : NextKept R s (whenReady s o) := by
  unfold Machine.whenReady
  split
  · exact ho
  · exact refused _

theorem whenAdapter {a : Adapter} (ho : s.cfg.adapter = a → NextKept R s o) : NextKept R s (whenAdapter a s o) := by
  unfold Machine.whenAdapter
  split
  · exact ho (by assumption)
  · exact refused _

end NextKept

namespace TraceKept

variable {R : State → State → Prop} (h : TraceKept R)
include h

/-! #### The controller's sequences -/

theorem setBacklight (v : Bool) : Keeps R (setBacklight v) := fun s => h.same s _ rfl rfl
theorem setActive (c : BitVec 1) : Keeps R (setActive c) := fun s => h.same s _ rfl rfl
theorem setFsm (f : Fsm) : Keeps R (setFsm f) := fun s => h.same s _ rfl rfl

theorem setMode (c : Byte) (f : ModeBytes → ModeBytes) : Keeps R (update (setMode c f)) := by
  intro s
  show R s (Machine.setMode c f s)
  unfold Machine.setMode
  split_ifs <;> exact h.same _ _ rfl rfl

theorem writeFunction (c v : Byte) : Keeps R (writeFunction c v) := h.setMode c _
theorem writeControl (c v : Byte) : Keeps R (writeControl c v) := h.setMode c _
theorem writeEntry (c v : Byte) : Keeps R (writeEntry c v) := h.setMode c _

theorem commandWait (c b : Byte) : Keeps R (command c b tCmd) := h.command c b (by simp [SettleDelay])
theorem clearHomeWait (c b : Byte) : Keeps R (command c b tClearHome) := h.command c b (by simp [SettleDelay])

theorem sendFunction (c v : Byte) : Keeps R (sendFunction c v) :=
  h.seqOps (by simp [h.writeFunction, h.commandWait])

theorem sendControl (c v : Byte) : Keeps R (sendControl c v) :=
  h.seqOps (by simp [h.writeControl, h.commandWait])

theorem sendEntry (c v : Byte) : Keeps R (sendEntry c v) :=
  h.seqOps (by simp [h.writeEntry, h.commandWait])

theorem changeControl (f : Byte → Byte) (c : Byte) : Keeps R (changeControl f c) := fun s => h.sendControl c _ s
theorem changeEntry (f : Byte → Byte) (c : Byte) : Keeps R (changeEntry f c) := fun s => h.sendEntry c _ s

theorem changeCursor (f : Byte → Byte) (c : Byte) : Keeps R (changeCursor f c) := by
  intro s
  unfold Machine.changeCursor
  split
  · exact h.changeControl f c s
  · exact h.changeControl withoutCursor c s

theorem requireCompatible : Keeps R requireCompatible := by
  intro s
  unfold Machine.requireCompatible
  split
  · exact h.opReturn () s
  · exact h.raise _ s

theorem initController (c : Byte) : Keeps R (initController c) := by
  have hreset1 : Keeps R (Machine.delay tReset1) := h.delay (by simp [SettleDelay])
  have hreset2 : Keeps R (Machine.delay tReset2) := h.delay (by simp [SettleDelay])
  have hreset3 : Keeps R (Machine.delay tReset3) := h.delay (by simp [SettleDelay])
  have hcmd : Keeps R (Machine.delay tCmd) := h.delay (by simp [SettleDelay])
  refine h.seqOps ?_
  simp [h.writeNibble, hreset1, hreset2, hreset3, hcmd, h.sendFunction, h.sendControl, h.sendEntry, h.clearHomeWait]

theorem initSequence : Keeps R initSequence :=
  h.seqOps (by
    simp [h.setFsm, h.requireCompatible, h.hardwareInit, h.fanOut h.initController, h.setBacklight,
      h.writeStateToBus, h.setActive])

theorem placeCursor (col row : Byte) : Keeps R (placeCursor col row) := fun s =>
  h.seqOps (by simp [h.setActive, h.commandWait]) s

theorem setCursor (col row : Byte) : Keeps R (setCursor col row) := by
  intro s
  unfold Machine.setCursor
  split
  · exact h.raise _ s
  split
  · exact h.raise _ s
  · exact h.placeCursor col row s

/-! #### The ends of an operation -/

theorem complete {f : α → Value} {op : Op α} {s : State} (hop : R s (op s).2) : NextKept R s (complete f op s) := by
  rintro t ⟨⟩
  exact h.trans hop (h.same _ _ rfl rfl)

theorem answer (v : State → Value) (s : State) : NextKept R s (answer v s) := h.complete (h.opReturn (v s) s)

theorem readStep (j : ReadJob) {s : State} (hs : supportsReadsOf s.cfg.adapter = true) : R s (jobStep j s) :=
  h.jobStep (fun _ _ => h.same _ _ rfl rfl) (fun _ _ _ => h.same _ _ rfl rfl) j hs

theorem startRead {s : State} (hs : supportsReadsOf s.cfg.adapter = true) (k : ReadKind) (rs : Bool) (n : Nat)
    (c : Byte) : NextKept R s (startRead k rs n c s) := by
  unfold Machine.startRead
  split
  · exact h.answer _ s
  · rintro t ⟨⟩
    exact h.readStep _ hs

/-- R200, R201: on an adapter without reads the host's reads end with an error, and record nothing. -/
theorem hostRead (k : ReadKind) (rs : Bool) (n : Nat) (c : Byte) (s : State) :
    NextKept R s (if supportsReadsOf s.cfg.adapter then Machine.startRead k rs n c s
      else Machine.complete okValue (raise .readNotSupported) s) := by
  split
  · exact h.startRead (by assumption) k rs n c
  · exact h.complete (h.raise _ s)

theorem whenReadable {s : State} {o : Outcome} (ho : supportsReadsOf s.cfg.adapter = true → NextKept R s o) :
    NextKept R s (whenReadable s o) := by
  unfold Machine.whenReadable
  split
  · exact ho (by assumption)
  · rintro t ⟨⟩
    exact h.same _ _ rfl rfl

/-! #### The instructions and the step -/

theorem exec (i : Instr) (s : State) : NextKept R s (exec i s) := by
  cases i
  case init => exact h.complete (h.initSequence s)
  case clear => exact .whenReady (h.complete (h.fanOut (fun c => h.clearHomeWait c _) s))
  case home =>
    refine .whenReady (h.complete (h.seqOps ?_ s))
    simp [h.fanOut fun c => h.clearHomeWait c homeCommand, h.setActive]
  case setCursor col row => exact .whenReady (h.complete (h.setCursor col row s))
  case showCursor => exact .whenReady (h.complete (h.fanOut (h.changeCursor _) s))
  case blinkCursor => exact .whenReady (h.complete (h.fanOut (h.changeCursor _) s))
  case showDisplay => exact .whenReady (h.complete (h.fanOut (h.changeControl _) s))
  case scrollLeft => exact .whenReady (h.complete (h.fanOut (fun c => h.commandWait c _) s))
  case scrollRight => exact .whenReady (h.complete (h.fanOut (fun c => h.commandWait c _) s))
  case leftToRight => exact .whenReady (h.complete (h.fanOut (h.changeEntry _) s))
  case rightToLeft => exact .whenReady (h.complete (h.fanOut (h.changeEntry _) s))
  case autoscroll => exact .whenReady (h.complete (h.fanOut (h.changeEntry _) s))
  case createChar loc g =>
    show NextKept R s (execCreateChar loc g s)
    unfold execCreateChar
    split
    · exact .whenReady (h.complete (h.fanOut (h.defineGlyph loc g) s))
    · exact .refused _
  case print text => exact .whenReady (h.complete (h.printText text s))
  case backlight =>
    exact .whenReady (h.complete (h.seqOps (by simp [h.setBacklight, h.writeStateToBus]) s))
  case readDeviceData n => exact .whenReady (h.hostRead _ _ _ _ s)
  case readAddressCounter => exact .whenReady (h.hostRead _ _ _ _ s)
  case supportsReads | defaultBusAddress | adapterSupportsReads | controllerCount | isCompatible | encode =>
    exact h.answer _ s
  case hardwareInit => exact h.complete (h.hardwareInit s)
  case setRs v => exact h.complete (h.setRs v s)
  case setRw v => exact h.complete (h.setRw v s)
  case setBacklight v => exact h.complete (h.setBacklight v s)
  case setEnable v c => exact h.complete (h.setEnable v c s)
  case setData nib => exact h.complete (h.setData nib s)
  case writeStateToBus => exact h.complete (h.writeStateToBus s)
  case writeNibble rs nib c => exact h.complete (h.writeNibble rs nib c s)
  case writeByte rs b c => exact h.complete (h.writeByte rs b c s)
  case readByte rs c => exact h.whenReadable fun hs => h.complete (h.readByte hs rs c)
  case busyPoll c =>
    refine h.whenReadable fun hs => ?_
    rintro t ⟨⟩
    exact h.readStep _ hs
  case readBytes rs n c => exact h.whenReadable fun hs => h.startRead hs _ rs n c
  case frameGeneric | frameAdafruit | frameDual =>
    refine .whenAdapter fun _ => h.complete (h.seqOps ?_ s)
    simp [h.setRs, h.setRw, h.setBacklight, h.setEnable, h.setData, h.writeStateToBus]
  case powerupAdafruit => exact .whenAdapter fun ha => h.complete (h.powerup ha)
  case readNibbleGeneric => exact .whenAdapter fun ha => h.complete (h.readNibble (by rw [ha]; rfl) 0)
  case clearDisplay c => exact h.complete (h.clearHomeWait c _ s)
  case returnHome c => exact h.complete (h.clearHomeWait c _ s)
  case entryModeSet =>
    refine h.complete (h.seqOps ?_ s)
    simp [h.whileReady (h.writeEntry _ _), h.commandWait]
  case displayControl =>
    refine h.complete (h.seqOps ?_ s)
    simp [h.whileReady (h.writeControl _ _), h.commandWait]
  case cursorDisplayShift c _ => exact h.complete (h.commandWait c _ s)
  case functionSet c => exact h.complete (h.commandWait c _ s)
  case setCgramAddr c _ => exact h.complete (h.commandWait c _ s)
  case setDdramAddr c _ => exact h.complete (h.commandWait c _ s)
  case handshakeNibble3 c => exact h.complete (h.writeNibble _ _ c s)
  case handshakeNibble2 c => exact h.complete (h.writeNibble _ _ c s)
  case dataWrite c b => exact h.complete (h.dataByte c b s)
  case statusRead c => exact h.whenReadable fun hs => h.complete (h.readByte hs _ c)
  case dataRead c => exact h.whenReadable fun hs => h.complete (h.readByte hs _ c)

/-- The relation holds of a whole step, where a read is in progress only on an adapter with reads. -/
theorem step {s : State} (hreading : s.job.isSome = true → supportsReadsOf s.cfg.adapter = true) :
    NextKept R s (step s) := by
  intro t hstep
  obtain ⟨-, ⟨-, -, rfl⟩ | ⟨j, hjob, rfl⟩ | ⟨p, rest, i, -, -, -, hexec⟩⟩ := step_cases hstep
  · exact h.refl _
  · exact h.readStep j (hreading (by simp [hjob]))
  · exact h.trans (h.same s { s with requests := rest } rfl rfl) (h.exec i _ t hexec)

end TraceKept

/-! ### The events a step can record (R10, R50, R51, R54, R63) -/

/-- From s to t the configuration stayed and the trace grew by allowed events only. -/
def AddsAllowed (s t : State) : Prop :=
  t.cfg = s.cfg ∧ ∃ evs, t.trace = s.trace ++ evs ∧ ∀ e ∈ evs, allowedEvent s.cfg e

theorem AddsAllowed.of_same {s t : State} (hcfg : t.cfg = s.cfg) (htrace : t.trace = s.trace) : AddsAllowed s t :=
  ⟨hcfg, [], by simp [htrace], by simp⟩

theorem AddsAllowed.of_event {s t : State} {e : Event} (hcfg : t.cfg = s.cfg) (htrace : t.trace = s.trace ++ [e])
    (he : allowedEvent s.cfg e) : AddsAllowed s t :=
  ⟨hcfg, [e], htrace, by simpa using he⟩

theorem AddsAllowed.trans {s t u : State} (h₁ : AddsAllowed s t) (h₂ : AddsAllowed t u) : AddsAllowed s u := by
  obtain ⟨hcfg₁, evs₁, htrace₁, hall₁⟩ := h₁
  obtain ⟨hcfg₂, evs₂, htrace₂, hall₂⟩ := h₂
  rw [hcfg₁] at hall₂
  refine ⟨hcfg₂.trans hcfg₁, evs₁ ++ evs₂, by rw [htrace₂, htrace₁, List.append_assoc], fun e he => ?_⟩
  exact (List.mem_append.mp he).elim (hall₁ e) (hall₂ e)

/-- R72: bit 0 of an MCP23008 frame's second byte is 0. -/
theorem getLsbD_zero_packAdafruit (bl : Bool) (data : Nibble) (en rs : Bool) :
    (packAdafruit bl data en rs).getLsbD 0 = false := by
  simp only [packAdafruit, BitVec.getLsbD_append]
  rfl

/-- R50, R63: the frame of `SIG` and the power-up frame have the length and the registers of the adapter. -/
theorem allowedEvent_busWrite {s : State} {bytes : List Byte} (h : Emits s bytes) :
    allowedEvent s.cfg (.busWrite s.cfg.busAddr bytes) := by
  refine ⟨rfl, ?_⟩
  rcases h with rfl | ⟨hadapter, rfl⟩
  · cases s.cfg.adapter with
    | genericPcf8574t => exact ⟨_, rfl⟩
    | adafruitMcp23008 => exact .inr ⟨_, rfl, getLsbD_zero_packAdafruit _ _ _ _⟩
    | dualPcf8574t => exact ⟨_, rfl⟩
  · simp [hadapter, powerupFrame]

/-- R10: the settle delays are the five values. -/
theorem allowedEvent_delay (cfg : Configuration) {t : Nat} (h : SettleDelay t) : allowedEvent cfg (.delay t) := by
  simp only [SettleDelay, tReset1, tReset2, tReset3, tClearHome, tCmd, tChar] at h
  simp only [allowedEvent]
  omega

/-- Every transfer adds allowed events only. -/
theorem transferKept_addsAllowed : TransferKept AddsAllowed where
  refl _ := .of_same rfl rfl
  trans := AddsAllowed.trans
  sig _ _ _ _ _ _ _ _ := .of_same rfl rfl
  write _ _ h := .of_event rfl rfl (allowedEvent_busWrite h)
  read _ h := .of_event rfl rfl ⟨rfl, h⟩
  wait s _ h := .of_event rfl rfl (allowedEvent_delay s.cfg h)

/-- The relation O57 is about sees the configuration and the trace only. -/
theorem traceKept_addsAllowed : TraceKept AddsAllowed where
  toTransferKept := transferKept_addsAllowed
  same _ _ := .of_same

/-- Settles O57: a step respects `AddsAllowed`; the invariant gives that a read in progress is on an adapter with reads. -/
theorem everyEventIsAllowed : Obligations.EveryEventIsAllowed := by
  intro s t hinv hstep
  obtain ⟨-, hadded⟩ := traceKept_addsAllowed.step hinv.reading t hstep
  exact hadded

end Sys2Proof.Machine
end

section
/-! PROOFS of the state statements (spec 10_state.md): what every instruction keeps, that a step keeps the invariant, the
rows that run by themselves, and a new block's registers. -/

namespace Sys2Proof.Machine

open Sys2Proof.Claims

variable {α : Type}

/-! ### Relations that every instruction but `init` respects -/

/-- What the operations outside the transfers do to the rest of the state: a result is given, a read stays in progress or
ends, the block faults. `FSM` is kept. -/
structure PortKept (R : State → State → Prop) : Prop extends TransferKept R where
  fsm : ∀ {s t}, R s t → t.fsm = s.fsm
  result : ∀ s r, R s (giveResult r s)
  job : ∀ s (j : Option ReadJob), (j.isSome = true → supportsReadsOf s.cfg.adapter = true) → R s { s with job := j }
  fault : ∀ s, supportsReadsOf s.cfg.adapter = false → R s { s with fault := some .unsupportedRead }

/-- R27: no bit but D, C and B gets set. -/
def KeepsControlShape (f : Byte → Byte) : Prop := ∀ v, v &&& 0xF8 = 0 → f v &&& 0xF8 = 0

/-- R28: no bit but ID and S gets set. -/
def KeepsEntryShape (f : Byte → Byte) : Prop := ∀ v, v &&& 0xFC = 0 → f v &&& 0xFC = 0

/-- What a relation needs where an instruction writes `ACTIVE` or, in `READY`, a control or entry byte. -/
structure RegistersKept (R : State → State → Prop) : Prop where
  active : ∀ s (c : BitVec 1), c.toNat < controllerCountOf s.cfg.adapter → R s { s with active := c }
  control : ∀ s c f, s.fsm = .ready → KeepsControlShape f →
    R s (setMode c (fun m => { m with control := some (f (modeByte (modeAt c s).control s)) }) s)
  entry : ∀ s c f, s.fsm = .ready → KeepsEntryShape f →
    R s (setMode c (fun m => { m with entry := some (f (modeByte (modeAt c s).entry s)) }) s)

theorem settleDelay_tCmd : SettleDelay tCmd := by simp [SettleDelay]
theorem settleDelay_tClearHome : SettleDelay tClearHome := by simp [SettleDelay]

/-! #### The flag updates set flag bits only (R26 to R28) -/

theorem keepsControlShape_withDisplay (on : Bool) : KeepsControlShape (withDisplay on) := by
  unfold KeepsControlShape; cases on <;> decide

theorem keepsControlShape_withCursor (on : Bool) : KeepsControlShape (withCursor on) := by
  unfold KeepsControlShape; cases on <;> decide

theorem keepsControlShape_withBlink (on : Bool) : KeepsControlShape (withBlink on) := by
  unfold KeepsControlShape; cases on <;> decide

theorem keepsControlShape_withoutCursor : KeepsControlShape withoutCursor := by
  unfold KeepsControlShape; decide

theorem keepsControlShape_controlFlags (x y z : Bool) : KeepsControlShape fun _ => controlFlags x y z :=
  fun _ _ => show controlFlags x y z &&& 0xF8 = 0 by revert x y z; decide

theorem keepsEntryShape_withLeftToRight : KeepsEntryShape withLeftToRight := by
  unfold KeepsEntryShape; decide

theorem keepsEntryShape_withRightToLeft : KeepsEntryShape withRightToLeft := by
  unfold KeepsEntryShape; decide

theorem keepsEntryShape_withAutoscroll (on : Bool) : KeepsEntryShape (withAutoscroll on) := by
  unfold KeepsEntryShape; cases on <;> decide

theorem keepsEntryShape_entryFlags (x y : Bool) : KeepsEntryShape fun _ => entryFlags x y :=
  fun _ _ => show entryFlags x y &&& 0xFC = 0 by revert x y; decide

/-! #### Outcomes that depend on the state -/

/-- R171: past the check the block is in `READY`. -/
theorem NextKept.whenReady_of_ready {R : State → State → Prop} {s : State} {o : Outcome}
    (ho : s.fsm = .ready → NextKept R s o) : NextKept R s (Machine.whenReady s o) := by
  cases hs : s.fsm with
  | ready => simpa [Machine.whenReady, hs] using ho hs
  | uninit => simpa [Machine.whenReady, hs] using NextKept.refused (R := R) _

/-- R187: the controller of a row is one the adapter has. -/
theorem rowMap_fst_lt (a : Adapter) (row : Byte) : (rowMap a row).1.toNat < controllerCountOf a := by
  cases a with
  | genericPcf8574t | adafruitMcp23008 => simp [rowMap, controllerCountOf]
  | dualPcf8574t => exact (rowMap _ row).1.isLt

/-- R31: controller 0 is one every adapter has. -/
theorem RegistersKept.setActive_zero {R : State → State → Prop} (hreg : RegistersKept R) : Keeps R (setActive 0) :=
  fun s => hreg.active s 0 (by cases s.cfg.adapter <;> decide)

namespace PortKept

variable {R : State → State → Prop} (h : PortKept R)
include h

/-! #### The ends of an operation -/

theorem complete {f : α → Value} {op : Op α} {s : State} (hop : R s (op s).2) : NextKept R s (complete f op s) := by
  rintro t ⟨⟩
  exact h.trans hop (h.result _ _)

theorem answer (v : State → Value) (s : State) : NextKept R s (answer v s) := h.complete (h.opReturn (v s) s)

theorem finish (r : OpResult) (s : State) : R s (finish r s) := h.trans (h.result s r) (h.job _ none nofun)

theorem readStep (j : ReadJob) {s : State} (hs : supportsReadsOf s.cfg.adapter = true) : R s (jobStep j s) :=
  h.jobStep h.finish (fun j u hu => h.job u j fun _ => hu) j hs

theorem startRead {s : State} (hs : supportsReadsOf s.cfg.adapter = true) (k : ReadKind) (rs : Bool) (n : Nat)
    (c : Byte) : NextKept R s (startRead k rs n c s) := by
  unfold Machine.startRead
  split
  · exact h.answer _ s
  · rintro t ⟨⟩
    exact h.readStep _ hs

theorem hostRead (k : ReadKind) (rs : Bool) (n : Nat) (c : Byte) (s : State) :
    NextKept R s (if supportsReadsOf s.cfg.adapter then Machine.startRead k rs n c s
      else Machine.complete okValue (raise .readNotSupported) s) := by
  split
  · exact h.startRead (by assumption) k rs n c
  · exact h.complete (h.raise _ s)

theorem whenReadable {s : State} {o : Outcome} (ho : supportsReadsOf s.cfg.adapter = true → NextKept R s o) :
    NextKept R s (whenReadable s o) := by
  unfold Machine.whenReadable
  cases hs : supportsReadsOf s.cfg.adapter with
  | true => exact ho hs
  | false =>
    rintro t ⟨⟩
    exact h.fault s hs

/-! #### The controller's sequences -/

/-- The relation carried from a state in `READY`, which no sequence but `init`'s leaves. -/
theorem carried_ready : Carried fun s t => s.fsm = .ready → R s t where
  refl s _ := h.refl s
  trans hst htu hs := h.trans (hst hs) (htu ((h.fsm (hst hs)).trans hs))

theorem fanOut_ready {body : Byte → Op Unit} (hb : ∀ c s, s.fsm = .ready → R s (body c s).2) {s : State}
    (hs : s.fsm = .ready) : R s (fanOut body s).2 := h.carried_ready.fanOut hb s hs

theorem fanOut_command (b : Byte) {t : Nat} (ht : SettleDelay t) : Keeps R (fanOut fun c => command c b t) :=
  h.fanOut fun c => h.command c b ht

variable (hreg : RegistersKept R)
include hreg

theorem changeControl {f : Byte → Byte} (hf : KeepsControlShape f) (c : Byte) (s : State) (hs : s.fsm = .ready) :
    R s (changeControl f c s).2 :=
  h.trans (hreg.control s c f hs hf) (h.seqOps (by simp [h.command c _ settleDelay_tCmd]) _)

theorem changeEntry {f : Byte → Byte} (hf : KeepsEntryShape f) (c : Byte) (s : State) (hs : s.fsm = .ready) :
    R s (changeEntry f c s).2 :=
  h.trans (hreg.entry s c f hs hf) (h.seqOps (by simp [h.command c _ settleDelay_tCmd]) _)

theorem changeCursor {f : Byte → Byte} (hf : KeepsControlShape f) (c : Byte) (s : State) (hs : s.fsm = .ready) :
    R s (changeCursor f c s).2 := by
  unfold Machine.changeCursor
  split
  · exact h.changeControl hreg hf c s hs
  · exact h.changeControl hreg keepsControlShape_withoutCursor c s hs

theorem placeCursor (col row : Byte) : Keeps R (placeCursor col row) := fun s =>
  h.trans (hreg.active s _ (rowMap_fst_lt s.cfg.adapter row)) (h.seqOps (by simp [h.command _ _ settleDelay_tCmd]) _)

theorem setCursor (col row : Byte) : Keeps R (setCursor col row) := by
  intro s
  unfold Machine.setCursor
  split
  · exact h.raise _ s
  split
  · exact h.raise _ s
  · exact h.placeCursor hreg col row s

/-- R189: a command row's mode byte, in `READY` alone. -/
theorem whileReady_control (x y z : Bool) (c : Byte) : Keeps R (whileReady (writeControl c (controlFlags x y z))) := by
  intro s
  cases hs : s.fsm with
  | uninit =>
    rw [whileReady_uninit hs]
    exact h.refl s
  | ready =>
    rw [whileReady_ready hs]
    exact hreg.control s c _ hs (keepsControlShape_controlFlags x y z)

theorem whileReady_entry (x y : Bool) (c : Byte) : Keeps R (whileReady (writeEntry c (entryFlags x y))) := by
  intro s
  cases hs : s.fsm with
  | uninit =>
    rw [whileReady_uninit hs]
    exact h.refl s
  | ready =>
    rw [whileReady_ready hs]
    exact hreg.entry s c _ hs (keepsEntryShape_entryFlags x y)

omit hreg

/-! #### The instructions -/

/-- Every instruction but `init` respects the relation; the backlight and the other registers matter only to the
instructions that may write them. -/
theorem exec {i : Instr} (hinit : i ≠ .init) (hbl : setsBacklight i = true → ∀ v, Keeps R (setBacklight v))
    (hreg : touchesSignalsOnly i = false → RegistersKept R) (s : State) : NextKept R s (exec i s) := by
  cases i
  case init => exact absurd rfl hinit
  case clear => exact .whenReady (h.complete (h.fanOut_command _ settleDelay_tClearHome s))
  case home =>
    refine .whenReady (h.complete (h.seqOps ?_ s))
    simpa [h.fanOut_command homeCommand settleDelay_tClearHome] using (hreg rfl).setActive_zero
  case setCursor col row => exact .whenReady (h.complete (h.setCursor (hreg rfl) col row s))
  case showCursor on =>
    exact .whenReady_of_ready fun hs =>
      h.complete (h.fanOut_ready (h.changeCursor (hreg rfl) (keepsControlShape_withCursor on)) hs)
  case blinkCursor on =>
    exact .whenReady_of_ready fun hs =>
      h.complete (h.fanOut_ready (h.changeCursor (hreg rfl) (keepsControlShape_withBlink on)) hs)
  case showDisplay on =>
    exact .whenReady_of_ready fun hs =>
      h.complete (h.fanOut_ready (h.changeControl (hreg rfl) (keepsControlShape_withDisplay on)) hs)
  case scrollLeft => exact .whenReady (h.complete (h.fanOut_command _ settleDelay_tCmd s))
  case scrollRight => exact .whenReady (h.complete (h.fanOut_command _ settleDelay_tCmd s))
  case leftToRight =>
    exact .whenReady_of_ready fun hs =>
      h.complete (h.fanOut_ready (h.changeEntry (hreg rfl) keepsEntryShape_withLeftToRight) hs)
  case rightToLeft =>
    exact .whenReady_of_ready fun hs =>
      h.complete (h.fanOut_ready (h.changeEntry (hreg rfl) keepsEntryShape_withRightToLeft) hs)
  case autoscroll on =>
    exact .whenReady_of_ready fun hs =>
      h.complete (h.fanOut_ready (h.changeEntry (hreg rfl) (keepsEntryShape_withAutoscroll on)) hs)
  case createChar loc g =>
    show NextKept R s (execCreateChar loc g s)
    unfold execCreateChar
    split
    · exact .whenReady (h.complete (h.fanOut (h.defineGlyph loc g) s))
    · exact .refused _
  case print text => exact .whenReady (h.complete (h.printText text s))
  case backlight => exact .whenReady (h.complete (h.seqOps (by simp [hbl rfl, h.writeStateToBus]) s))
  case readDeviceData n => exact .whenReady (h.hostRead _ _ _ _ s)
  case readAddressCounter => exact .whenReady (h.hostRead _ _ _ _ s)
  case supportsReads | defaultBusAddress | adapterSupportsReads | controllerCount | isCompatible | encode =>
    exact h.answer _ s
  case hardwareInit => exact h.complete (h.hardwareInit s)
  case setRs v => exact h.complete (h.setRs v s)
  case setRw v => exact h.complete (h.setRw v s)
  case setBacklight v => exact h.complete (hbl rfl v s)
  case setEnable v c => exact h.complete (h.setEnable v c s)
  case setData nib => exact h.complete (h.setData nib s)
  case writeStateToBus => exact h.complete (h.writeStateToBus s)
  case writeNibble rs nib c => exact h.complete (h.writeNibble rs nib c s)
  case writeByte rs b c => exact h.complete (h.writeByte rs b c s)
  case readByte rs c | statusRead c | dataRead c => exact h.whenReadable fun hs => h.complete (h.readByte hs _ c)
  case busyPoll c =>
    refine h.whenReadable fun hs => ?_
    rintro t ⟨⟩
    exact h.readStep _ hs
  case readBytes rs n c => exact h.whenReadable fun hs => h.startRead hs _ rs n c
  case frameGeneric | frameAdafruit | frameDual =>
    refine .whenAdapter fun _ => h.complete (h.seqOps ?_ s)
    simp [h.setRs, h.setRw, hbl rfl, h.setEnable, h.setData, h.writeStateToBus]
  case powerupAdafruit => exact .whenAdapter fun ha => h.complete (h.powerup ha)
  case readNibbleGeneric => exact .whenAdapter fun ha => h.complete (h.readNibble (by rw [ha]; rfl) 0)
  case clearDisplay c | returnHome c => exact h.complete (h.command c _ settleDelay_tClearHome s)
  case entryModeSet c x y =>
    refine h.complete (h.seqOps ?_ s)
    simp [h.whileReady_entry (hreg rfl) x y c, h.command c _ settleDelay_tCmd]
  case displayControl c x y z =>
    refine h.complete (h.seqOps ?_ s)
    simp [h.whileReady_control (hreg rfl) x y z c, h.command c _ settleDelay_tCmd]
  case cursorDisplayShift c _ | functionSet c | setCgramAddr c _ | setDdramAddr c _ =>
    exact h.complete (h.command c _ settleDelay_tCmd s)
  case handshakeNibble3 c | handshakeNibble2 c => exact h.complete (h.writeNibble _ _ c s)
  case dataWrite c b => exact h.complete (h.dataByte c b s)

end PortKept

/-! ### Mode bytes -/

theorem modeAt_of_ne {c : Byte} (hc : c ≠ 0) (s : State) : modeAt c s = s.mode1 := if_neg hc

/-- Only an adapter with two controllers has another than controller 0. -/
theorem controllerCountOf_eq_two {a : Adapter} {c : Byte} (hc : c.toNat < controllerCountOf a) (h0 : c ≠ 0) :
    controllerCountOf a = 2 := by
  have hpos : c.toNat ≠ 0 := fun h => h0 (BitVec.eq_of_toNat_eq h)
  cases a with
  | genericPcf8574t | adafruitMcp23008 => simp only [controllerCountOf] at hc; omega
  | dualPcf8574t => rfl

/-- R30: without the controller there is nothing to write. -/
theorem setMode_bad {s : State} {c : Byte} (hc : controllerCountOf s.cfg.adapter ≤ c.toNat) (f : ModeBytes → ModeBytes) :
    setMode c f s = s := if_neg (Nat.not_lt.mpr hc)

theorem setMode_zero (f : ModeBytes → ModeBytes) (s : State) : setMode 0 f s = { s with mode0 := f s.mode0 } :=
  if_pos (by cases s.cfg.adapter <;> decide)

theorem setMode_of_ne {s : State} {c : Byte} (hc : c.toNat < controllerCountOf s.cfg.adapter) (h0 : c ≠ 0)
    (f : ModeBytes → ModeBytes) : setMode c f s = { s with mode1 := f s.mode1 } :=
  (if_pos hc).trans (if_neg h0)

@[simp] theorem setMode_cfg (c : Byte) (f : ModeBytes → ModeBytes) (s : State) : (setMode c f s).cfg = s.cfg :=
  (uses_setMode c f s).1

@[simp] theorem setMode_fsm (c : Byte) (f : ModeBytes → ModeBytes) (s : State) : (setMode c f s).fsm = s.fsm := by
  unfold setMode
  split_ifs <;> rfl

@[simp] theorem setMode_sig (c : Byte) (f : ModeBytes → ModeBytes) (s : State) : (setMode c f s).sig = s.sig := by
  unfold setMode
  split_ifs <;> rfl

theorem modeAt_setMode_self {s : State} {c : Byte} (hc : c.toNat < controllerCountOf s.cfg.adapter)
    (f : ModeBytes → ModeBytes) : modeAt c (setMode c f s) = f (modeAt c s) := by
  by_cases h0 : c = 0
  · subst h0
    rw [setMode_zero]
    rfl
  · rw [setMode_of_ne hc h0, modeAt_of_ne h0, modeAt_of_ne h0]

/-- A write changes the mode bytes of a controller as it says, or not at all. -/
theorem modeAt_setMode (c d : Byte) (f : ModeBytes → ModeBytes) (s : State) :
    modeAt c (setMode d f s) = f (modeAt c s) ∨ modeAt c (setMode d f s) = modeAt c s := by
  unfold setMode modeAt
  split_ifs <;> simp

theorem ModeShape.withControl {m : ModeBytes} (h : ModeShape m) {v : Byte} (hv : v &&& 0xF8 = 0) :
    ModeShape { m with control := some v } := by
  obtain ⟨hfunction, -, hentry⟩ := h
  exact ⟨hfunction, fun w hw => by cases hw; exact hv, hentry⟩

theorem ModeShape.withEntry {m : ModeBytes} (h : ModeShape m) {v : Byte} (hv : v &&& 0xFC = 0) :
    ModeShape { m with entry := some v } := by
  obtain ⟨hfunction, hcontrol, -⟩ := h
  exact ⟨hfunction, hcontrol, fun w hw => by cases hw; exact hv⟩

theorem ModeShape.withInitFunction {m : ModeBytes} (h : ModeShape m) :
    ModeShape { m with function := some initFunction } := by
  obtain ⟨-, hcontrol, hentry⟩ := h
  exact ⟨.inr (by rw [initFunction_eq]), hcontrol, hentry⟩

theorem ModeHeld.withControl {m : ModeBytes} (h : ModeHeld m) (v : Byte) : ModeHeld { m with control := some v } := by
  obtain ⟨hfunction, -, hentry⟩ := h
  exact ⟨hfunction, rfl, hentry⟩

theorem ModeHeld.withEntry {m : ModeBytes} (h : ModeHeld m) (v : Byte) : ModeHeld { m with entry := some v } := by
  obtain ⟨hfunction, hcontrol, -⟩ := h
  exact ⟨hfunction, hcontrol, rfl⟩

/-! ### The invariant under one change of the state -/

namespace BlockInv

variable {s : State} (h : BlockInv s)
include h

/-- The invariant does not look at what the block has exchanged with the host and the bus. -/
theorem withExchange (trace : List Event) (results : List OpResult) (requests : List Packet) (script : List BusAnswer)
    (txn : Nat) : BlockInv { s with
      trace := trace, results := results, requests := requests, busScript := script, txn := txn } :=
  { h with }

theorem withSig {g : SignalState} (hrw : hasRwOf s.cfg.adapter = false → g.rw = false)
    (hen1 : controllerCountOf s.cfg.adapter = 1 → g.en1 = false) : BlockInv { s with sig := g } :=
  { h with rw := hrw, en1 := hen1 }

theorem withActive {c : BitVec 1} (hc : c.toNat < controllerCountOf s.cfg.adapter) : BlockInv { s with active := c } :=
  { h with active := hc }

theorem withJob {j : Option ReadJob} (hj : j.isSome = true → supportsReadsOf s.cfg.adapter = true) :
    BlockInv { s with job := j } :=
  { h with reading := hj }

theorem withFault (hs : supportsReadsOf s.cfg.adapter = false) (f : Option Fault) : BlockInv { s with fault := f } :=
  { h with faulted := fun _ => hs }

theorem withUninit : BlockInv { s with fsm := .uninit } :=
  { h with held := nofun, compatible := nofun }

/-- R171, R173: what `READY` asks for. -/
theorem withReady (hheld : ModesHeld s) (hcompatible : isCompatibleWith s.cfg.adapter s.cfg.geometry = true) :
    BlockInv { s with fsm := .ready } :=
  { h with held := fun _ => hheld, compatible := fun _ => hcompatible }

theorem modeAt_shape (c : Byte) : ModeShape (modeAt c s) := by
  unfold modeAt
  split
  · exact h.shape0
  · exact h.shape1

theorem modeAt_held (hs : s.fsm = .ready) {c : Byte} (hc : c.toNat < controllerCountOf s.cfg.adapter) :
    ModeHeld (modeAt c s) := by
  obtain ⟨h0, h1⟩ := h.held hs
  by_cases hc0 : c = 0
  · rwa [hc0]
  · rw [modeAt_of_ne hc0]
    exact h1 (controllerCountOf_eq_two hc hc0)

theorem setMode {c : Byte} {f : ModeBytes → ModeBytes}
    (hshape : c.toNat < controllerCountOf s.cfg.adapter → ModeShape (f (modeAt c s)))
    (hheld : s.fsm = .ready → ModeHeld (modeAt c s) → ModeHeld (f (modeAt c s))) : BlockInv (Machine.setMode c f s) := by
  by_cases hc : c.toNat < controllerCountOf s.cfg.adapter
  · by_cases hc0 : c = 0
    · subst hc0
      rw [setMode_zero]
      exact { h with
        shape0 := hshape hc
        held := fun hs => ⟨hheld hs (h.held hs).1, (h.held hs).2⟩ }
    · have htwo := controllerCountOf_eq_two hc hc0
      rw [modeAt_of_ne hc0] at hshape hheld
      rw [setMode_of_ne hc hc0]
      exact { h with
        mode1 := fun hone => absurd (hone.symm.trans htwo) (by decide)
        shape1 := hshape hc
        held := fun hs => ⟨(h.held hs).1, fun _ => hheld hs ((h.held hs).2 htwo)⟩ }
  · rwa [setMode_bad (Nat.not_lt.mp hc)]

/-- R27, R189: a control byte computed from the old one, which has a value in `READY`. -/
theorem changeControl (hs : s.fsm = .ready) {f : Byte → Byte} (hf : KeepsControlShape f) (c : Byte) :
    BlockInv (Machine.setMode c (fun m => { m with control := some (f (modeByte (modeAt c s).control s)) }) s) := by
  refine h.setMode (fun hc => (h.modeAt_shape c).withControl (hf _ ?_)) fun _ hm => hm.withControl _
  obtain ⟨-, hcontrol, -⟩ := h.modeAt_held hs hc
  obtain ⟨v, hv⟩ := Option.isSome_iff_exists.mp hcontrol
  obtain ⟨-, hshape, -⟩ := h.modeAt_shape c
  rw [hv]
  exact hshape v hv

/-- R28, R189: an entry byte computed from the old one, which has a value in `READY`. -/
theorem changeEntry (hs : s.fsm = .ready) {f : Byte → Byte} (hf : KeepsEntryShape f) (c : Byte) :
    BlockInv (Machine.setMode c (fun m => { m with entry := some (f (modeByte (modeAt c s).entry s)) }) s) := by
  refine h.setMode (fun hc => (h.modeAt_shape c).withEntry (hf _ ?_)) fun _ hm => hm.withEntry _
  obtain ⟨-, -, hentry⟩ := h.modeAt_held hs hc
  obtain ⟨v, hv⟩ := Option.isSome_iff_exists.mp hentry
  obtain ⟨-, -, hshape⟩ := h.modeAt_shape c
  rw [hv]
  exact hshape v hv

end BlockInv

/-! ### The invariant through every instruction but `init` -/

/-- `FSM` is kept, and the invariant if it held. -/
def InvKept (s t : State) : Prop := t.fsm = s.fsm ∧ (BlockInv s → BlockInv t)

theorem transferKept_invKept : TransferKept InvKept where
  refl _ := ⟨rfl, id⟩
  trans hst htu := ⟨htu.1.trans hst.1, fun h => htu.2 (hst.2 h)⟩
  sig _ _ _ _ _ _ hrw hen1 :=
    ⟨rfl, fun h => h.withSig (fun hr => (hrw hr).trans (h.rw hr)) fun hn => (hen1 hn).trans (h.en1 hn)⟩
  write _ _ _ := ⟨rfl, fun h => h.withExchange _ _ _ _ _⟩
  read _ _ := ⟨rfl, fun h => h.withExchange _ _ _ _ _⟩
  wait _ _ _ := ⟨rfl, fun h => h.withExchange _ _ _ _ _⟩

theorem portKept_invKept : PortKept InvKept where
  toTransferKept := transferKept_invKept
  fsm hst := hst.1
  result _ _ := ⟨rfl, fun h => h.withExchange _ _ _ _ _⟩
  job _ _ hj := ⟨rfl, fun h => h.withJob hj⟩
  fault _ hs := ⟨rfl, fun h => h.withFault hs _⟩

theorem registersKept_invKept : RegistersKept InvKept where
  active _ _ hc := ⟨rfl, fun h => h.withActive hc⟩
  control _ c _ hs hf := ⟨setMode_fsm _ _ _, fun h => h.changeControl hs hf c⟩
  entry _ c _ hs hf := ⟨setMode_fsm _ _ _, fun h => h.changeEntry hs hf c⟩

theorem keeps_invKept_setBacklight (v : Bool) : Keeps InvKept (setBacklight v) :=
  fun _ => ⟨rfl, fun h => h.withSig h.rw h.en1⟩

/-! ### `init` (R172 to R180) -/

/-- The predicate survives. -/
def Stays (Q : State → Prop) (s t : State) : Prop := Q s → Q t

theorem carried_stays (Q : State → Prop) : Carried (Stays Q) where
  refl _ := id
  trans hst htu := htu ∘ hst

/-- What is true when one step of a successful sequence ends, and survives every step, is true at the end. -/
theorem seqOps_leaves {Q : State → Prop} {l : List (Op Unit)} {op : Op Unit} (hop : op ∈ l)
    (hset : ∀ s t, op s = (.ok (), t) → Q t) (hstay : ∀ o ∈ l, Keeps (Stays Q) o) {s t : State}
    (h : seqOps l s = (.ok (), t)) : Q t := by
  induction l generalizing s with
  | nil => cases hop
  | cons o l ih =>
    have hrest : ∀ o ∈ l, Keeps (Stays Q) o := fun o' ho' => hstay o' (List.mem_cons_of_mem o ho')
    rcases ho : o s with ⟨e | ⟨⟩, u⟩
    · rw [seqOps_cons_error ho] at h
      cases h
    rw [seqOps_cons_ok ho] at h
    rcases List.mem_cons.mp hop with rfl | hop
    · have hkeep := (carried_stays Q).seqOps hrest u (hset s u ho)
      rwa [h] at hkeep
    · exact ih hop hrest h

/-- A transfer's relation that the register writes of `init` respect too. -/
structure InitKept (R : State → State → Prop) : Prop extends TransferKept R where
  function : ∀ c, Keeps R (writeFunction c initFunction)
  control : ∀ c, Keeps R (writeControl c initControl)
  entry : ∀ c, Keeps R (writeEntry c initEntry)
  backlight : Keeps R (Machine.setBacklight true)
  active : Keeps R (Machine.setActive 0)

/-- R172 steps 3a to 3f. -/
def initControllerSteps (c : Byte) : List (Op Unit) := [
  writeNibble false handshakeNibble c, delay tReset1, writeNibble false handshakeNibble c, delay tReset2,
  writeNibble false handshakeNibble c, delay tReset3, writeNibble false commitNibble c, delay tCmd,
  sendFunction c initFunction, sendControl c initControl, sendEntry c initEntry,
  command c clearCommand tClearHome, command c homeCommand tClearHome]

theorem initController_eq (c : Byte) : initController c = seqOps (initControllerSteps c) := rfl

/-- R172 between `FSM <- UNINIT` and `FSM <- READY`. -/
def initPreparation : List (Op Unit) :=
  [requireCompatible, hardwareInit, fanOut initController, setBacklight true, writeStateToBus, setActive 0]

theorem initSequence_eq (s : State) :
    initSequence s = opBind (seqOps initPreparation) (fun _ => seqOps [setFsm .ready]) { s with fsm := .uninit } :=
  seqOps_append initPreparation [setFsm .ready] { s with fsm := .uninit }

namespace InitKept

variable {R : State → State → Prop} (h : InitKept R)
include h

theorem requireCompatible : Keeps R requireCompatible := by
  intro s
  unfold Machine.requireCompatible
  split
  · exact h.opReturn () s
  · exact h.raise _ s

theorem sendFunction (c : Byte) : Keeps R (sendFunction c initFunction) :=
  h.seqOps (by simp [h.function, h.command c _ settleDelay_tCmd])

theorem sendControl (c : Byte) : Keeps R (sendControl c initControl) :=
  h.seqOps (by simp [h.control, h.command c _ settleDelay_tCmd])

theorem sendEntry (c : Byte) : Keeps R (sendEntry c initEntry) :=
  h.seqOps (by simp [h.entry, h.command c _ settleDelay_tCmd])

theorem initControllerSteps (c : Byte) : ∀ op ∈ initControllerSteps c, Keeps R op := by
  have hreset1 : Keeps R (Machine.delay tReset1) := h.delay (by simp [SettleDelay])
  have hreset2 : Keeps R (Machine.delay tReset2) := h.delay (by simp [SettleDelay])
  have hreset3 : Keeps R (Machine.delay tReset3) := h.delay (by simp [SettleDelay])
  simp [Machine.initControllerSteps, h.writeNibble, hreset1, hreset2, hreset3, h.delay settleDelay_tCmd,
    h.sendFunction, h.sendControl, h.sendEntry, h.command c _ settleDelay_tClearHome]

theorem initController (c : Byte) : Keeps R (initController c) := by
  rw [initController_eq]
  exact h.seqOps (h.initControllerSteps c)

theorem initPreparation : ∀ op ∈ initPreparation, Keeps R op := by
  simpa [Machine.initPreparation, h.requireCompatible, h.hardwareInit, h.fanOut h.initController, h.backlight,
    h.writeStateToBus] using h.active

end InitKept

/-! #### What the preparation keeps -/

/-- R173: the geometry fits the adapter. -/
def Compatible (s : State) : Prop := isCompatibleWith s.cfg.adapter s.cfg.geometry = true

theorem initKept_compatible : InitKept (Stays Compatible) where
  toCarried := carried_stays Compatible
  sig _ _ _ _ _ _ _ _ := id
  write _ _ _ := id
  read _ _ := id
  wait _ _ _ := id
  function c s h := by simpa [Compatible, writeFunction] using h
  control c s h := by simpa [Compatible, writeControl] using h
  entry c s h := by simpa [Compatible, writeEntry] using h
  backlight _ := id
  active _ := id

/-- The block is in `UNINIT` and meets the invariant. -/
def Starting (s : State) : Prop := s.fsm = .uninit ∧ BlockInv s

theorem InvKept.starting {s t : State} (h : InvKept s t) : Stays Starting s t :=
  fun ⟨hs, hinv⟩ => ⟨h.1.trans hs, h.2 hinv⟩

/-- In `UNINIT` no mode byte has to hold a value, and the initial ones set flag bits only. -/
theorem starting_setMode (c : Byte) {f : ModeBytes → ModeBytes} (hf : ∀ m, ModeShape m → ModeShape (f m)) :
    Keeps (Stays Starting) (update (setMode c f)) := fun s ⟨hs, hinv⟩ =>
  ⟨(setMode_fsm c f s).trans hs,
    hinv.setMode (fun _ => hf _ (hinv.modeAt_shape c)) fun hr => absurd (hs.symm.trans hr) nofun⟩

theorem initKept_starting : InitKept (Stays Starting) where
  toCarried := carried_stays Starting
  sig s rs rw en0 en1 data hrw hen1 := (transferKept_invKept.sig s rs rw en0 en1 data hrw hen1).starting
  write s bytes hb := (transferKept_invKept.write s bytes hb).starting
  read s hs := (transferKept_invKept.read s hs).starting
  wait s t ht := (transferKept_invKept.wait s t ht).starting
  function c := starting_setMode c fun _ h => h.withInitFunction
  control c := starting_setMode c fun _ h => h.withControl (by decide)
  entry c := starting_setMode c fun _ h => h.withEntry (by decide)
  backlight s := (keeps_invKept_setBacklight true s).starting
  active s := (registersKept_invKept.setActive_zero s).starting

/-- A fact about a controller's mode bytes that the writes of `init` do not take back. -/
structure Lasting (P : ModeBytes → Prop) : Prop where
  function : ∀ m, P m → P { m with function := some initFunction }
  control : ∀ m, P m → P { m with control := some initControl }
  entry : ∀ m, P m → P { m with entry := some initEntry }

theorem lasting_function : Lasting fun m => m.function.isSome = true := ⟨fun _ _ => rfl, fun _ => id, fun _ => id⟩
theorem lasting_control : Lasting fun m => m.control.isSome = true := ⟨fun _ => id, fun _ _ => rfl, fun _ => id⟩
theorem lasting_entry : Lasting fun m => m.entry.isSome = true := ⟨fun _ => id, fun _ => id, fun _ _ => rfl⟩

theorem lasting_modeHeld : Lasting ModeHeld :=
  ⟨fun _ ⟨_, hcontrol, hentry⟩ => ⟨rfl, hcontrol, hentry⟩, fun _ h => h.withControl _, fun _ h => h.withEntry _⟩

/-- P holds of the mode bytes of controller c, if there is one. -/
def OfController (P : ModeBytes → Prop) (c : Byte) (s : State) : Prop :=
  c.toNat < controllerCountOf s.cfg.adapter → P (modeAt c s)

variable {P : ModeBytes → Prop}

theorem ofController_setMode (c d : Byte) {f : ModeBytes → ModeBytes} (hf : ∀ m, P m → P (f m)) :
    Keeps (Stays (OfController P c)) (update (setMode d f)) := by
  intro s hP hc
  have hold : P (modeAt c s) := hP (by simpa using hc)
  rcases modeAt_setMode c d f s with h | h
  · simpa [h] using hf _ hold
  · simpa [h] using hold

theorem Lasting.initKept (hP : Lasting P) (c : Byte) : InitKept (Stays (OfController P c)) where
  toCarried := carried_stays _
  sig _ _ _ _ _ _ _ _ := id
  write _ _ _ := id
  read _ _ := id
  wait _ _ _ := id
  function d := ofController_setMode c d hP.function
  control d := ofController_setMode c d hP.control
  entry d := ofController_setMode c d hP.entry
  backlight _ := id
  active _ := id

/-- R189: a mode byte is written before its command, so that it holds however the command ends. -/
theorem Lasting.of_write (hP : Lasting P) (c b : Byte) {f : ModeBytes → ModeBytes} (hf : ∀ m, P (f m)) {s t : State}
    (h : seqOps [update (setMode c f), command c b tCmd] s = (.ok (), t)) : OfController P c t := by
  have hkeep := (hP.initKept c).seqOps (l := [command c b tCmd])
    (by simp [(hP.initKept c).command c b settleDelay_tCmd]) (setMode c f s)
  rw [seqOps_cons_update] at h
  rw [h] at hkeep
  refine hkeep fun hc => ?_
  rw [modeAt_setMode_self (by simpa using hc)]
  exact hf _

/-- What a step of R172 3a to 3f makes true and the others keep holds of an initialized controller. -/
theorem Lasting.of_step (hP : Lasting P) {c : Byte} {op : Op Unit} (hop : op ∈ initControllerSteps c)
    (hset : ∀ s t, op s = (.ok (), t) → OfController P c t) {s t : State} (h : initController c s = (.ok (), t)) :
    OfController P c t := by
  rw [initController_eq] at h
  exact seqOps_leaves hop hset ((hP.initKept c).initControllerSteps c) h

/-- R172 3c to 3e: all three mode bytes of an initialized controller hold a value. -/
theorem modeHeld_of_initController {c : Byte} {s t : State} (h : initController c s = (.ok (), t)) :
    OfController ModeHeld c t := by
  have hfunction := lasting_function.of_step (op := sendFunction c initFunction) (by simp [initControllerSteps])
    (fun _ _ => lasting_function.of_write c _ fun _ => rfl) h
  have hcontrol := lasting_control.of_step (op := sendControl c initControl) (by simp [initControllerSteps])
    (fun _ _ => lasting_control.of_write c _ fun _ => rfl) h
  have hentry := lasting_entry.of_step (op := sendEntry c initEntry) (by simp [initControllerSteps])
    (fun _ _ => lasting_entry.of_write c _ fun _ => rfl) h
  exact fun hc => ⟨hfunction hc, hcontrol hc, hentry hc⟩

theorem mem_controllersOf {a : Adapter} {c : Byte} (hc : c.toNat < controllerCountOf a) : c ∈ controllersOf a := by
  revert c
  cases a <;> decide

theorem modeHeld_of_fanOut {s t : State} (h : fanOut initController s = (.ok (), t)) (c : Byte) :
    OfController ModeHeld c t := by
  intro hc
  have hcfg := (exact_fanOut exact_initController).cfg h
  have hmem : initController c ∈ (controllersOf s.cfg.adapter).map initController :=
    List.mem_map_of_mem (mem_controllersOf (by rwa [← hcfg]))
  refine seqOps_leaves (Q := OfController ModeHeld c) hmem (fun _ _ => modeHeld_of_initController) ?_ h hc
  intro op hop
  obtain ⟨d, -, rfl⟩ := List.mem_map.mp hop
  exact (lasting_modeHeld.initKept c).initController d

theorem modesHeld_of_initPreparation {s t : State} (h : seqOps initPreparation s = (.ok (), t)) : ModesHeld t := by
  have hheld (c : Byte) : OfController ModeHeld c t :=
    seqOps_leaves (op := fanOut initController) (by simp [initPreparation]) (fun _ _ hf => modeHeld_of_fanOut hf c)
      (lasting_modeHeld.initKept c).initPreparation h
  exact ⟨hheld 0 (by cases t.cfg.adapter <;> decide), fun htwo => hheld 1 (by rw [htwo]; decide)⟩

theorem compatible_of_requireCompatible {s t : State} (h : requireCompatible s = (.ok (), t)) : Compatible t := by
  unfold requireCompatible at h
  split at h
  · cases h
    assumption
  · cases h

theorem compatible_of_initPreparation {s t : State} (h : seqOps initPreparation s = (.ok (), t)) : Compatible t :=
  seqOps_leaves (op := requireCompatible) (by simp [initPreparation]) (fun _ _ => compatible_of_requireCompatible)
    initKept_compatible.initPreparation h

/-- `init` keeps the invariant, whatever the bus answers: it goes to `READY` only after its preparation succeeded. -/
theorem BlockInv.initSequence {s : State} (h : BlockInv s) : BlockInv (Machine.initSequence s).2 := by
  have hstart : Starting { s with fsm := .uninit } := ⟨rfl, h.withUninit⟩
  have hprep := (carried_stays Starting).seqOps initKept_starting.initPreparation _ hstart
  rw [initSequence_eq]
  rcases hp : seqOps initPreparation { s with fsm := .uninit } with ⟨e | ⟨⟩, t⟩ <;> rw [hp] at hprep
  · rw [opBind_error hp]
    exact hprep.2
  · rw [opBind_ok hp]
    exact hprep.2.withReady (modesHeld_of_initPreparation hp) (compatible_of_initPreparation hp)

/-! ### The step keeps the invariant -/

theorem BlockInv.exec {i : Instr} {s t : State} (h : BlockInv s) (hexec : exec i s = .next t) : BlockInv t := by
  by_cases hinit : i = .init
  · subst hinit
    cases hexec
    exact h.initSequence.withExchange _ _ _ _ _
  · exact (portKept_invKept.exec hinit (fun _ => keeps_invKept_setBacklight) (fun _ => registersKept_invKept) s t
      hexec).2 h

/-- Settles O60: an iteration of a read and every instruction keep the invariant. -/
theorem everyStepKeepsTheInvariant : Obligations.EveryStepKeepsTheInvariant := by
  intro s t hinv hstep
  obtain ⟨-, ⟨-, -, rfl⟩ | ⟨j, hjob, rfl⟩ | ⟨p, rest, i, -, -, -, hexec⟩⟩ := step_cases hstep
  · exact hinv
  · exact (portKept_invKept.readStep j (hinv.reading (by simp [hjob]))).2 hinv
  · exact (hinv.withExchange s.trace s.results rest s.busScript s.txn).exec hexec

/-! ### What the instructions leave unchanged -/

/-- The two states look the same through the view. -/
def SameView {β : Type} (view : State → β) (s t : State) : Prop := view t = view s

/-- A view that shows `FSM` and nothing of what transfers, results, reads in progress and faults change. -/
structure RegisterView {β : Type} (view : State → β) : Prop where
  fsm : ∀ {s t}, view t = view s → t.fsm = s.fsm
  frame : ∀ (s : State) (g : SignalState) trace results script txn job fault, g.bl = s.sig.bl →
    view { s with
      sig := g, trace := trace, results := results, busScript := script, txn := txn, job := job, fault := fault } = view s

namespace RegisterView

variable {β : Type} {view : State → β} (h : RegisterView view)
include h

theorem transferKept : TransferKept (SameView view) where
  refl _ := rfl
  trans hst htu := htu.trans hst
  sig s _ _ _ _ _ _ _ := h.frame s _ _ _ _ _ _ _ rfl
  write s _ _ := h.frame s _ _ _ _ _ _ _ rfl
  read s _ := h.frame s _ _ _ _ _ _ _ rfl
  wait s _ _ := h.frame s _ _ _ _ _ _ _ rfl

theorem portKept : PortKept (SameView view) where
  toTransferKept := h.transferKept
  fsm hst := h.fsm hst
  result s _ := h.frame s _ _ _ _ _ _ _ rfl
  job s _ _ := h.frame s _ _ _ _ _ _ _ rfl
  fault s _ := h.frame s _ _ _ _ _ _ _ rfl

/-! #### A read in progress, on whatever adapter -/

theorem memRead : Keeps (SameView view) memRead := fun s => h.frame s _ _ _ _ _ _ _ rfl

theorem readStrobe (c : Byte) : Keeps (SameView view) (readStrobe c) :=
  have k := h.transferKept
  k.opBind (k.seqOps (by simp [k.setEnable, k.writeStateToBus])) fun _ => k.opBind h.memRead fun _ =>
    k.opBind (k.seqOps (by simp [k.setEnable, k.writeStateToBus])) fun _ => k.opReturn _

theorem readByte (rs : Bool) (c : Byte) : Keeps (SameView view) (readByte rs c) :=
  have k := h.transferKept
  k.opBind (k.readSetup rs c) fun _ => k.opBind (h.readStrobe c) fun _ => k.opBind (h.readStrobe c) fun _ =>
    k.opBind k.readRestore fun _ => k.opReturn _

theorem pollOnce (c : Byte) : Keeps (SameView view) (pollOnce c) :=
  have k := h.transferKept
  k.opBind (k.opBind (k.readSetup false c) fun _ => k.opBind (h.readStrobe c) fun _ =>
    k.opBind (k.seqOps (by simp [k.strobeOnly, k.readRestore])) fun _ => k.opReturn _) fun _ => k.opReturn _

theorem job (s : State) (j : Option ReadJob) : SameView view s { s with job := j } := h.frame s _ _ _ _ _ _ _ rfl

theorem jobNext (j : ReadJob) (b : Byte) (s : State) : SameView view s (jobNext j b s) := by
  unfold Machine.jobNext
  split
  · exact h.portKept.finish _ s
  · exact h.job s _

theorem jobRead (j : ReadJob) (s : State) : SameView view s (jobRead j s) := by
  by_cases hk : j.kind = .busyPoll
  · rw [jobRead_poll hk]
    exact h.portKept.finish _ s
  have hread := h.readByte j.rs j.c s
  rcases hr : Machine.readByte j.rs j.c s with ⟨e | b, u⟩ <;> rw [hr] at hread
  · rw [jobRead_error hk hr]
    exact h.portKept.trans hread (h.portKept.finish _ u)
  · rw [jobRead_ok hk hr]
    exact h.portKept.trans hread (h.jobNext j b u)

theorem jobStep (j : ReadJob) (s : State) : SameView view s (jobStep j s) := by
  have hpoll := h.pollOnce j.c s
  rcases hp : Machine.pollOnce j.c s with ⟨e | _ | _, u⟩ <;> rw [hp] at hpoll
  · rw [jobStep_error hp]
    exact h.portKept.trans hpoll (h.portKept.finish _ u)
  · rw [jobStep_clear hp]
    exact h.portKept.trans hpoll (h.jobRead j u)
  · rw [jobStep_busy hp]
    exact h.portKept.trans hpoll (h.job u _)

end RegisterView

/-! #### Where an instruction can go -/

/-- An instruction that answers a next state gave one result after its transactions, or is one iteration into a read, or
faulted. -/
theorem exec_next {i : Instr} {s t : State} (h : exec i s = .next t) :
    (∃ n evs u r, Issued s u n evs ∧ t = giveResult r u) ∨ (∃ j, t = jobStep j s) ∨
      t = { s with fault := some .unsupportedRead } := by
  cases exec_cases i s with
  | complete f op exact eq =>
    obtain ⟨n, evs, issued, -⟩ := exact s
    exact .inl ⟨n, evs, (op s).2, resultOf f (op s).1, issued, by simpa [eq, complete, runOp] using h.symm⟩
  | reading k rs c n reads eq => exact .inr (.inl ⟨⟨k, rs, c, n, []⟩, by simpa [eq] using h.symm⟩)
  | faulted reads eq => exact .inr (.inr (by simpa [eq] using h.symm))
  | refused r eq => simp [eq] at h

/-- R34: whatever an instruction does, the configuration and the host's further requests stay. -/
theorem exec_cfg_requests {i : Instr} {s t : State} (h : exec i s = .next t) :
    t.cfg = s.cfg ∧ t.requests = s.requests := by
  obtain ⟨_, _, u, r, issued, rfl⟩ | ⟨j, rfl⟩ | rfl := exec_next h
  · exact ⟨issued.cfg, issued.requests⟩
  · obtain ⟨_, _, -, -, -, -, -, hcfg, hrequests, -⟩ := jobStep_exact j s
    exact ⟨hcfg, hrequests⟩
  · exact ⟨rfl, rfl⟩

/-! #### `MODE`, `ACTIVE` and `FSM` -/

/-- The registers no transfer writes. -/
def controllerRegisters (s : State) : Fsm × ModeBytes × ModeBytes × BitVec 1 := (s.fsm, s.mode0, s.mode1, s.active)

theorem registerView_controllerRegisters : RegisterView controllerRegisters where
  fsm h := congrArg Prod.fst h
  frame _ _ _ _ _ _ _ _ _ := rfl

/-- Settles O50: no instruction writes the configuration or the requests, and the named ones no controller register. -/
theorem signalInstructionsKeepModeActiveAndFsm : Obligations.SignalInstructionsKeepModeActiveAndFsm := by
  intro i s t hexec
  obtain ⟨hcfg, hrequests⟩ := exec_cfg_requests hexec
  refine ⟨hcfg, hrequests, fun hi => ?_⟩
  have hinit : i ≠ .init := by rintro rfl; cases hi
  have hview := registerView_controllerRegisters.portKept.exec hinit (fun _ _ _ => rfl)
    (fun hreg => absurd (hi.symm.trans hreg) nofun) s t hexec
  simp only [SameView, controllerRegisters, Prod.mk.injEq] at hview
  obtain ⟨hfsm, hmode0, hmode1, hactive⟩ := hview
  exact ⟨hmode0, hmode1, hactive, hfsm⟩

/-! #### `FSM`, and `MODE` in `UNINIT` (R29, R33) -/

/-- `FSM`, and in `UNINIT` the mode bytes. -/
def uninitView (s : State) : Fsm × Option (ModeBytes × ModeBytes) :=
  (s.fsm, if s.fsm = .uninit then some (s.mode0, s.mode1) else none)

theorem registerView_uninitView : RegisterView uninitView where
  fsm h := congrArg Prod.fst h
  frame _ _ _ _ _ _ _ _ _ := rfl

/-- In `READY` the mode bytes are out of view. -/
theorem sameView_uninitView_setMode {s : State} (hs : s.fsm = .ready) (c : Byte) (f : ModeBytes → ModeBytes) :
    SameView uninitView s (setMode c f s) := by
  simp [SameView, uninitView, hs]

theorem registersKept_uninitView : RegistersKept (SameView uninitView) where
  active _ _ _ := rfl
  control _ c _ hs _ := sameView_uninitView_setMode hs c _
  entry _ c _ hs _ := sameView_uninitView_setMode hs c _

theorem not_sameView_uninitView {s t : State}
    (h : t.fsm ≠ s.fsm ∨ (s.fsm = .uninit ∧ (t.mode0 ≠ s.mode0 ∨ t.mode1 ≠ s.mode1))) :
    ¬ SameView uninitView s t := by
  intro hview
  have hfsm := registerView_uninitView.fsm hview
  obtain hne | ⟨hs, hmode⟩ := h
  · exact hne hfsm
  · have ht : t.fsm = .uninit := hfsm.trans hs
    simp only [SameView, uninitView, hs, ht, if_true, Prod.mk.injEq, Option.some.injEq, true_and] at hview
    obtain ⟨hmode0, hmode1⟩ := hview
    exact hmode.elim (absurd hmode0) (absurd hmode1)

/-- Settles O52: an idle step, an iteration of a read and every instruction but `init` leave the view as it was. -/
theorem onlyInitChangesTheFsmOrFillsMode : Obligations.OnlyInitChangesTheFsmOrFillsMode := by
  intro s t hstep hchanged
  have hview := not_sameView_uninitView hchanged
  obtain ⟨hfault, ⟨-, -, rfl⟩ | ⟨j, -, rfl⟩ | ⟨p, rest, i, hjob, hrequests, hdecode, hexec⟩⟩ := step_cases hstep
  · exact absurd rfl hview
  · exact absurd (registerView_uninitView.jobStep j s) hview
  · by_cases hinit : i = .init
    · exact ⟨p, rest, hfault, hjob, hrequests, hinit ▸ hdecode⟩
    · exact absurd (registerView_uninitView.portKept.exec hinit (fun _ _ _ => rfl)
        (fun _ => registersKept_uninitView) _ t hexec) hview

/-! #### `SIG.BL` (R22) -/

/-- `FSM` and the backlight signal. -/
def backlightView (s : State) : Fsm × Bool := (s.fsm, s.sig.bl)

theorem registerView_backlightView : RegisterView backlightView where
  fsm h := congrArg Prod.fst h
  frame s _ _ _ _ _ _ _ hbl := congrArg (s.fsm, ·) hbl

theorem registersKept_backlightView : RegistersKept (SameView backlightView) where
  active _ _ _ := rfl
  control _ _ _ _ _ := by simp [SameView, backlightView]
  entry _ _ _ _ _ := by simp [SameView, backlightView]

/-- Settles O53: `set_backlight` is the only write of BL, and these instructions do not run it. -/
theorem backlightPersists : Obligations.BacklightPersists := by
  intro i s t hi hexec
  have hinit : i ≠ .init := by rintro rfl; cases hi
  have hview := registerView_backlightView.portKept.exec hinit (fun hbl => absurd (hi.symm.trans hbl) nofun)
    (fun _ => registersKept_backlightView) s t hexec
  exact congrArg Prod.snd hview

/-! ### One result per operation (R36, R238) -/

/-- An iteration of a read gives its result and ends it, or gives none and leaves it in progress. -/
theorem jobStep_result (j : ReadJob) (s : State) : (jobStep j s).fault = s.fault ∧
    ((∃ r, (jobStep j s).results = s.results ++ [r] ∧ (jobStep j s).job = none) ∨
      ((jobStep j s).results = s.results ∧ (jobStep j s).job.isSome = true)) := by
  obtain ⟨_, _, -, -, -, -, hfault, -, -, ⟨r, hresults, hjob, -⟩ | ⟨hresults, hjob, -⟩⟩ := jobStep_exact j s
  · exact ⟨hfault, .inl ⟨_, hresults, hjob⟩⟩
  · exact ⟨hfault, .inr ⟨hresults, hjob⟩⟩

/-- Settles O54: an operation that runs to its end gives its one result, and an iteration of a read gives one or goes on. -/
theorem oneResultPerOperation : Obligations.OneResultPerOperation := by
  refine ⟨fun i s t hexec hjob hfault => ?_, fun s t hreading hstep => ?_⟩
  · obtain ⟨_, _, u, r, issued, rfl⟩ | ⟨j, rfl⟩ | rfl := exec_next hexec
    · exact .inl ⟨r, by simp [issued.results], issued.job.trans hjob, issued.fault.trans hfault⟩
    · obtain ⟨hsame, ⟨r, hresults, hnone⟩ | ⟨hresults, hsome⟩⟩ := jobStep_result j s
      · exact .inl ⟨r, hresults, hnone, hsame.trans hfault⟩
      · exact .inr ⟨hresults, .inl hsome⟩
    · exact .inr ⟨rfl, .inr rfl⟩
  · obtain ⟨-, ⟨hnone, -, -⟩ | ⟨j, -, rfl⟩ | ⟨_, _, _, hnone, -⟩⟩ := step_cases hstep
    · simp [hnone] at hreading
    · exact (jobStep_result j s).2
    · simp [hnone] at hreading

/-! ### The rows that run by themselves (30_encoding.md R79 to R89) -/

/-- R143 on a bus that acknowledges, in the rules' own words. -/
theorem writeByte_eq_byteSent {s : State} {c : Byte} (hc : c.toNat < count s) (h : Acks s 4) (rs : Bool) (b : Byte) :
    writeByte rs b c s = (.ok (), byteSent rs b c s) := by
  rw [writeByte_acked hc h, highNibble_eq, lowNibble_eq]
  rfl

theorem command_eq_commandSent {s : State} {c : Byte} (hc : c.toNat < count s) (h : Acks s 4) (b : Byte) (t : Nat) :
    command c b t s = (.ok (), commandSent b t c s) := by
  rw [command_acked hc h, writeByte_eq_byteSent hc h]
  rfl

/-- An operation that succeeds gives `ok`. -/
theorem complete_ok {op : Op Unit} {s t : State} (h : op s = (.ok (), t)) :
    complete okValue op s = .next (returned .ok t) := by
  rw [complete, runOp, h]
  rfl

theorem complete_error {f : α → Value} {op : Op α} {e : OpError} {s t : State} (h : op s = (.error e, t)) :
    complete f op s = .next (failed e t) := by
  rw [complete, runOp, h]
  rfl

/-! #### The command bytes -/

theorem cgramCommand_eq (loc : BitVec 3) : cgramCommand (loc.setWidth 8) = BitVec.ofNat 8 (0x40 + 8 * loc.toNat) := by
  revert loc; decide

theorem ddramCommand_eq (addr : BitVec 7) : ddramCommand (addr.setWidth 8) = BitVec.ofNat 8 (0x80 + addr.toNat) := by
  revert addr; decide

/-- Settles O46: each row is one command, and its byte is the rule's. -/
theorem commandRowsSendTheirByte : Obligations.CommandRowsSendTheirByte := by
  intro s c right loc addr hc hacks
  have hsent (b : Byte) (t : Nat) : complete okValue (command c b t) s = .next (returned .ok (commandSent b t c s)) :=
    complete_ok (command_eq_commandSent hc hacks b t)
  refine ⟨hsent _ _, hsent _ _, hsent _ _, hsent _ _, ?_, ?_⟩
  · rw [← cgramCommand_eq]
    exact hsent _ _
  · rw [← ddramCommand_eq]
    exact hsent _ _

/-! #### The rows that shadow a mode byte -/

theorem entryFlags_eq (x y : Bool) :
    entryFlags x y = BitVec.ofNat 8 (2 * (if x then 1 else 0) + if y then 1 else 0) := by
  revert x y; decide

theorem controlFlags_eq (x y z : Bool) : controlFlags x y z =
    BitVec.ofNat 8 (4 * (if x then 1 else 0) + 2 * (if y then 1 else 0) + if z then 1 else 0) := by
  revert x y z; decide

theorem setMode_eq_changeMode {s : State} {c : Byte} (hc : c.toNat < count s) (f : ModeBytes → ModeBytes) :
    setMode c f s = changeMode c f s := if_pos hc

/-- R189 in `READY`: the mode byte is written, then the command is sent from the state that leaves. -/
theorem shadowed_ready {s : State} {c : Byte} (hs : s.fsm = .ready) (hc : c.toNat < count s) (h : Acks s 4)
    (f : ModeBytes → ModeBytes) (b : Byte) :
    complete okValue (seqOps [whileReady (update (setMode c f)), command c b tCmd]) s =
      .next (returned .ok (commandSent b 39 c (changeMode c f s))) := by
  obtain ⟨hcfg, hscript, htxn⟩ := uses_setMode c f s
  have hwrite : whileReady (update (setMode c f)) s = (.ok (), setMode c f s) := whileReady_ready hs _
  have hsend := command_eq_commandSent (s := setMode c f s) (c := c) (by rwa [count, hcfg])
    ((acks_congr hscript htxn 4).mpr h) b tCmd
  refine complete_ok ?_
  rw [seqOps_cons_ok hwrite, seqOps_cons_ok hsend, setMode_eq_changeMode hc]
  rfl

/-- R29 in `UNINIT`: the command is sent, and no mode byte is written. -/
theorem shadowed_uninit {s : State} {c : Byte} (hs : s.fsm = .uninit) (hc : c.toNat < count s) (h : Acks s 4)
    (op : Op Unit) (b : Byte) :
    complete okValue (seqOps [whileReady op, command c b tCmd]) s = .next (returned .ok (commandSent b 39 c s)) := by
  refine complete_ok ?_
  rw [seqOps_cons_ok (whileReady_uninit hs op), seqOps_cons_ok (command_eq_commandSent hc h b tCmd)]
  rfl

/-- Settles O47: both rows are a shadowed command, and their bytes are the flags' numbers. -/
theorem modeCommandRowsShadowTheirFlags : Obligations.ModeCommandRowsShadowTheirFlags := by
  intro s c x y z hc hacks
  dsimp only
  rw [← entryFlags_eq, ← controlFlags_eq]
  exact ⟨fun hs => ⟨shadowed_ready hs hc hacks _ _, shadowed_ready hs hc hacks _ _⟩,
    fun hs => ⟨shadowed_uninit hs hc hacks _ _, shadowed_uninit hs hc hacks _ _⟩⟩

/-! #### Where the rows fail (R30, R145, R237) -/

theorem highNibble_cgramCommand (loc : BitVec 3) :
    highNibble (cgramCommand (loc.setWidth 8)) = BitVec.ofNat 4 (4 + loc.toNat / 2) := by
  revert loc; decide

theorem highNibble_ddramCommand (addr : BitVec 7) :
    highNibble (ddramCommand (addr.setWidth 8)) = BitVec.ofNat 4 (8 + addr.toNat / 16) := by
  revert addr; decide

theorem highNibble_entryCommand (x y : Bool) : highNibble (entryCommand (entryFlags x y)) = 0 := by
  revert x y; decide

theorem highNibble_controlCommand (x y z : Bool) : highNibble (controlCommand (controlFlags x y z)) = 0 := by
  revert x y z; decide

theorem highNibble_shiftCommand (right : Bool) : highNibble (shiftCommand right) = 1 := by
  revert right; decide

/-- The state of a row that failed at its index: its signals are staged. -/
def stagedOnly (rs : Bool) (nib : Nibble) (s : State) : State := { s with sig := staged s.cfg.adapter rs nib s.sig }

section BadIndex

variable {s : State} {c : Byte} (hc : count s ≤ c.toNat)
include hc

theorem complete_command_bad {b : Byte} {nib : Nibble} (hb : highNibble b = nib) (t : Nat) :
    complete okValue (command c b t) s = .next (failed (.badControllerId c) (stagedOnly false nib s)) := by
  subst hb
  exact complete_error (command_bad hc b t)

theorem complete_writeNibble_bad (nib : Nibble) :
    complete okValue (writeNibble false nib c) s = .next (failed (.badControllerId c) (stagedOnly false nib s)) :=
  complete_error (writeNibble_bad hc false nib)

theorem complete_dataByte_bad (b : Byte) : complete okValue (dataByte c b) s =
    .next (failed (.badControllerId c) (stagedOnly true ((b >>> 4).setWidth 4) s)) := by
  rw [← highNibble_eq]
  exact complete_error (seqOps_cons_error (writeByte_bad hc true b))

/-- R30: in `READY` too, no mode byte is written. -/
theorem whileReady_setMode_bad (f : ModeBytes → ModeBytes) : whileReady (update (setMode c f)) s = (.ok (), s) := by
  cases hs : s.fsm with
  | uninit => exact whileReady_uninit hs _
  | ready => rw [whileReady_ready hs, update_apply, setMode_bad hc]

theorem shadowed_bad {b : Byte} {nib : Nibble} (hb : highNibble b = nib) (f : ModeBytes → ModeBytes) (t : Nat) :
    complete okValue (seqOps [whileReady (update (setMode c f)), command c b t]) s =
      .next (failed (.badControllerId c) (stagedOnly false nib s)) := by
  subst hb
  refine complete_error ?_
  rw [seqOps_cons_ok (whileReady_setMode_bad hc f), seqOps_cons_error (command_bad hc b t)]
  rfl

/-- R147: a read stages RS, RW and DATA before its index check. -/
theorem readByte_bad (hg : s.cfg.adapter = .genericPcf8574t) (rs : Bool) : readByte rs c s =
    (.error (.badControllerId c), { s with sig := { s.sig with rs := rs, rw := true, data := 0xF } }) := by
  refine opBind_error ?_
  unfold readSetup
  simp only [seqOps_cons_setRs, seqOps_cons_setRw, seqOps_cons_setData, hg, hasRwOf, if_true]
  exact seqOps_cons_setEnable_bad (s := { s with sig := { s.sig with rs := rs, rw := true, data := 0xF } }) hc _ _

end BadIndex

theorem whenReadable_reads {s : State} (hg : s.cfg.adapter = .genericPcf8574t) (k : Outcome) : whenReadable s k = k := by
  rw [whenReadable, hg]
  rfl

theorem whenReadable_faults {s : State} (hg : s.cfg.adapter ≠ .genericPcf8574t) (k : Outcome) :
    whenReadable s k = .next { s with fault := some .unsupportedRead } := by
  unfold whenReadable
  cases ha : s.cfg.adapter with
  | genericPcf8574t => exact absurd ha hg
  | adafruitMcp23008 | dualPcf8574t => rfl

/-- Settles O49: the engine's failure at a bad index, with each row's first nibble, and the fault of a read. -/
theorem rowsFailAsTheEngineDoes : Obligations.RowsFailAsTheEngineDoes := by
  intro s c b x y z loc addr
  refine ⟨fun hc i rs nib hmem => ?_, fun hg hc rs => ?_, fun hg i hmem => ?_⟩
  · simp only [List.mem_cons, List.not_mem_nil, or_false, Prod.mk.injEq] at hmem
    rcases hmem with ⟨rfl, rfl, rfl⟩ | ⟨rfl, rfl, rfl⟩ | ⟨rfl, rfl, rfl⟩ | ⟨rfl, rfl, rfl⟩ | ⟨rfl, rfl, rfl⟩ |
      ⟨rfl, rfl, rfl⟩ | ⟨rfl, rfl, rfl⟩ | ⟨rfl, rfl, rfl⟩ | ⟨rfl, rfl, rfl⟩ | ⟨rfl, rfl, rfl⟩ | ⟨rfl, rfl, rfl⟩
    · exact complete_command_bad hc (by decide) _
    · exact complete_command_bad hc (by decide) _
    · exact shadowed_bad hc (highNibble_entryCommand x y) _ _
    · exact shadowed_bad hc (highNibble_controlCommand x y z) _ _
    · exact complete_command_bad hc (highNibble_shiftCommand x) _
    · exact complete_command_bad hc (by decide) _
    · exact complete_command_bad hc (highNibble_cgramCommand loc) _
    · exact complete_command_bad hc (highNibble_ddramCommand addr) _
    · exact complete_writeNibble_bad hc _
    · exact complete_writeNibble_bad hc _
    · exact complete_dataByte_bad hc b
  · have hfailed := complete_error (f := .byte) (readByte_bad hc hg rs)
    cases rs <;> exact (whenReadable_reads hg _).trans hfailed
  · simp only [List.mem_cons, List.not_mem_nil, or_false] at hmem
    rcases hmem with rfl | rfl <;> exact whenReadable_faults hg _

/-! ### A new block (R260, R261) -/

/-- R8, R32: what `configure` gives is the reset state of a well-formed configuration. -/
theorem configure_eq_ok {a : Adapter} {addr : Option Nat} {g : Geometry} {s : State} (h : configure a addr g = .ok s) :
    addr.getD (defaultBusAddrOf a).toNat ≤ 0x7F ∧ geometryWellFormed a g = true ∧
      s = State.resetWith ⟨a, BitVec.ofNat 7 (addr.getD (defaultBusAddrOf a).toNat), g⟩ := by
  obtain ⟨haddr, hgeometry⟩ := (configure_ok_iff a addr g).mp ⟨s, h⟩
  refine ⟨haddr, hgeometry, ?_⟩
  simpa [configure, Nat.not_lt.mpr haddr, hgeometry] using h.symm

/-- Settles O2: the reset state, register by register. -/
theorem resetLeavesTheSpecifiedRegisters : Obligations.ResetLeavesTheSpecifiedRegisters := by
  intro a addr g s h
  obtain ⟨haddr, -, rfl⟩ := configure_eq_ok h
  have hnumber : (BitVec.ofNat 7 (addr.getD (defaultBusAddrOf a).toNat)).toNat = addr.getD (defaultBusAddrOf a).toNat :=
    Nat.mod_eq_of_lt (by omega)
  exact ⟨rfl, hnumber, rfl, rfl, rfl, rfl, rfl, rfl, rfl, rfl⟩

theorem modeShape_reset : ModeShape ModeBytes.reset := ⟨.inl rfl, nofun, nofun⟩

theorem blockInv_resetWith {cfg : Configuration} (h : geometryWellFormed cfg.adapter cfg.geometry = true) :
    BlockInv (State.resetWith cfg) where
  geometry := h
  active := by cases ha : cfg.adapter <;> simp [State.resetWith, ha, controllerCountOf]
  rw _ := rfl
  en1 _ := rfl
  mode1 _ := rfl
  shape0 := modeShape_reset
  shape1 := modeShape_reset
  held := nofun
  compatible := nofun
  reading := nofun
  faulted := nofun

/-- Settles O59: the reset state of a well-formed configuration meets every clause. -/
theorem newInstancesMeetTheInvariant : Obligations.NewInstancesMeetTheInvariant := by
  intro a addr g s h
  obtain ⟨-, hgeometry, rfl⟩ := configure_eq_ok h
  exact blockInv_resetWith hgeometry

end Sys2Proof.Machine
end

section
/-! PROOFS of the bus access statements (spec 20_memory.md): the frames of a byte write (R57, R142, R143) and the one read of
the nibble row (R54, R75, R146, R150). -/

namespace Sys2Proof.Machine

open Sys2Proof.Claims

/-- Settles O16: the engine port's `write_byte` is the shared operation, run to its end. -/
theorem writeByteSendsFourFrames : Obligations.WriteByteSendsFourFrames := fun _ rs b _ hc hacks =>
  complete_ok (writeByte_eq_byteSent hc hacks rs b)

/-- A frame row on its own adapter has a meaning (R76). -/
theorem whenAdapter_eq {a : Adapter} {s : State} (ha : s.cfg.adapter = a) (k : Outcome) : whenAdapter a s k = k :=
  if_pos ha

/-- An operation that returns a value gives it to the host (R36). -/
theorem complete_returned {α : Type} {f : α → Value} {op : Op α} {a : α} {s t : State} (h : op s = (.ok a, t)) :
    complete f op s = .next (returned (f a) t) := by
  rw [complete, runOp, h]
  rfl

/-- R150 on a bus that acknowledges, in the rules' own words: the nibble is bits 7:4 of the one byte read (R75). -/
theorem readNibble_eq_pollSent {s : State} (hg : s.cfg.adapter = .genericPcf8574t) (h : Acks s 7) :
    readNibble 0 s = (.ok ((answerData (answerAt s 2) >>> 4).setWidth 4), pollSent s) := by
  rw [readNibble_acked hg h, nibbleOf_eq]
  rfl

/-- Settles O45: the row is one poll iteration's nibble read, on the adapter whose row it is. -/
theorem readNibbleRowTakesTheHighHalf : Obligations.ReadNibbleRowTakesTheHighHalf := fun s hg hacks =>
  calc exec .readNibbleGeneric s
    _ = whenAdapter .genericPcf8574t s (complete .nibble (readNibble 0) s) := rfl
    _ = complete .nibble (readNibble 0) s := whenAdapter_eq hg _
    _ = .next (returned (.nibble ((answerData (answerAt s 2) >>> 4).setWidth 4)) (pollSent s)) :=
      complete_returned (readNibble_eq_pollSent hg hacks)

end Sys2Proof.Machine
end

section
/-! PROOFS of the encoding statements (spec 30_encoding.md): the frames bit by bit (R71 to R74), decode and encode as each
other's inverse (R92, R93), the refusal of what encodes nothing (R95), and the frame, nibble and transfer rows run by
themselves. -/

namespace Sys2Proof

variable {α β : Type}

/-! ### Operand fields (R93 to R95): a field decodes to a value exactly when it is that value's number -/

@[simp] theorem byteField_eq_ok_iff {n : Nat} {b : Byte} : byteField n = .ok b ↔ n = b.toNat :=
  ⟨byteField_eq_ok, fun h => h ▸ byteField_toNat b⟩

@[simp] theorem nibbleField_eq_ok_iff {n : Nat} {d : Nibble} : nibbleField n = .ok d ↔ n = d.toNat :=
  ⟨nibbleField_eq_ok, fun h => h ▸ nibbleField_toNat d⟩

@[simp] theorem boolField_eq_ok_iff {n : Nat} {v : Bool} : boolField n = .ok v ↔ n = fieldOfBool v :=
  ⟨boolField_eq_ok, fun h => h ▸ boolField_fieldOfBool v⟩

@[simp] theorem textField_eq_ok_iff {ns : List Nat} {bs : List Byte} : textField ns = .ok bs ↔ ns = fieldsOfBytes bs :=
  ⟨textField_eq_ok, fun h => h ▸ textField_fieldsOfBytes bs⟩

/-! ### Sequencing in the decoder -/

@[simp] theorem exceptBind_eq_ok_iff {x : Except Reject α} {f : α → Except Reject β} {b : β} :
    x.bind f = .ok b ↔ ∃ a, x = .ok a ∧ f a = .ok b := by
  cases x <;> simp [Except.bind]

@[simp] theorem bind_eq_ok_iff {x : Except Reject α} {f : α → Except Reject β} {b : β} :
    (x >>= f) = .ok b ↔ ∃ a, x = .ok a ∧ f a = .ok b := exceptBind_eq_ok_iff

@[simp] theorem exceptMap_eq_ok_iff {x : Except Reject α} {f : α → β} {b : β} :
    x.map f = .ok b ↔ ∃ a, x = .ok a ∧ f a = b := by
  cases x <;> simp [Except.map]

@[simp] theorem map_eq_ok_iff {x : Except Reject α} {f : α → β} {b : β} :
    (f <$> x) = .ok b ↔ ∃ a, x = .ok a ∧ f a = b := exceptMap_eq_ok_iff

@[simp] theorem pureIf_eq_ok_iff {p : Prop} [Decidable p] {a b : α} {r : Reject} :
    (if p then pure a else .error r : Except Reject α) = .ok b ↔ p ∧ a = b := by
  split <;> simp [*, pure, Except.pure]

/-! ### The operand lists of R93: what each form reads, and from which fields -/

section Operands

variable {ops : List Nat} {i : Instr}

theorem noOperand_eq_ok_iff {j : Instr} : noOperand j ops = .ok i ↔ ops = [] ∧ j = i := by
  unfold noOperand
  split <;> simp_all

theorem boolOperand_eq_ok_iff {mk : Bool → Instr} :
    boolOperand mk ops = .ok i ↔ ∃ v, ops = [fieldOfBool v] ∧ mk v = i := by
  unfold boolOperand
  split <;> simp_all

theorem byteOperand_eq_ok_iff {mk : Byte → Instr} :
    byteOperand mk ops = .ok i ↔ ∃ b : Byte, ops = [b.toNat] ∧ mk b = i := by
  unfold byteOperand
  split <;> simp_all

theorem decodeSetData_eq_ok_iff :
    decodeSetData ops = .ok i ↔ ∃ nib : Nibble, ops = [nib.toNat] ∧ .setData nib = i := by
  unfold decodeSetData
  split <;> simp_all

theorem decodeReadDeviceData_eq_ok_iff :
    decodeReadDeviceData ops = .ok i ↔ ∃ n, ops = [n] ∧ .readDeviceData n = i := by
  unfold decodeReadDeviceData
  split <;> simp_all

theorem decodeSetCursor_eq_ok_iff :
    decodeSetCursor ops = .ok i ↔ ∃ col row : Byte, ops = [col.toNat, row.toNat] ∧ .setCursor col row = i := by
  unfold decodeSetCursor
  split <;> simp_all [and_assoc]

theorem decodeSetEnable_eq_ok_iff :
    decodeSetEnable ops = .ok i ↔ ∃ v idx, ops = [fieldOfBool v, idx.toNat] ∧ .setEnable v idx = i := by
  unfold decodeSetEnable
  split <;> simp_all [and_assoc]

theorem decodeReadByte_eq_ok_iff :
    decodeReadByte ops = .ok i ↔ ∃ rs c, ops = [fieldOfBool rs, c.toNat] ∧ .readByte rs c = i := by
  unfold decodeReadByte
  split <;> simp_all [and_assoc]

theorem decodeReadBytes_eq_ok_iff :
    decodeReadBytes ops = .ok i ↔ ∃ rs n c, ops = [fieldOfBool rs, n, c.toNat] ∧ .readBytes rs n c = i := by
  unfold decodeReadBytes
  split <;> simp_all [and_assoc]

theorem decodeWriteNibble_eq_ok_iff : decodeWriteNibble ops = .ok i ↔
    ∃ rs nib c, ops = [fieldOfBool rs, nib.toNat, c.toNat] ∧ .writeNibble rs nib c = i := by
  unfold decodeWriteNibble
  split <;> simp_all [and_assoc]

theorem decodeWriteByte_eq_ok_iff : decodeWriteByte ops = .ok i ↔
    ∃ rs b c, ops = [fieldOfBool rs, b.toNat, c.toNat] ∧ .writeByte rs b c = i := by
  unfold decodeWriteByte
  split <;> simp_all [and_assoc]

theorem decodeIsCompatible_eq_ok_iff : decodeIsCompatible ops = .ok i ↔ ∃ rows cols o0 o1 o2 o3 : Byte,
    ops = [rows.toNat, cols.toNat, o0.toNat, o1.toNat, o2.toNat, o3.toNat] ∧
      .isCompatible ⟨rows, cols, o0, o1, o2, o3⟩ = i := by
  unfold decodeIsCompatible
  split <;> simp_all [and_assoc]

/-- R95: `LOC` is the one operand with a check of its own. -/
theorem decodeCreateChar_eq_ok_iff : decodeCreateChar ops = .ok i ↔ ∃ loc m0 m1 m2 m3 m4 m5 m6 m7 : Byte,
    ops = loc.toNat :: fieldsOfBytes [m0, m1, m2, m3, m4, m5, m6, m7] ∧ loc.ult 8 = true ∧
      .createChar loc ⟨m0, m1, m2, m3, m4, m5, m6, m7⟩ = i := by
  unfold decodeCreateChar
  split <;> simp_all [fieldsOfBytes, and_assoc]

end Operands

/-! ### Requests (R92, R93) -/

/-- The packet is the encoding of the instruction, which is well-formed. -/
def Encodes (p : Packet) (i : Instr) : Prop := i.wellFormed = true ∧ encode i = p

theorem noOperand_encodes {opc : Nat} {ops : List Nat} {i j : Instr} (hj : Encodes (requestPacket opc []) j)
    (h : noOperand j ops = .ok i) : Encodes (requestPacket opc ops) i := by
  obtain ⟨rfl, rfl⟩ := noOperand_eq_ok_iff.mp h
  exact hj

theorem boolOperand_encodes {opc : Nat} {ops : List Nat} {i : Instr} {mk : Bool → Instr}
    (hmk : ∀ v, Encodes (requestPacket opc [fieldOfBool v]) (mk v)) (h : boolOperand mk ops = .ok i) :
    Encodes (requestPacket opc ops) i := by
  obtain ⟨v, rfl, rfl⟩ := boolOperand_eq_ok_iff.mp h
  exact hmk v

/-- Code by code, the cases numbered as `decodeOpc`'s arms: the operands an arm reads are those of its instruction's
encoding. -/
theorem decodeOpc_encodes {opc : Nat} {ops : List Nat} {i : Instr} (h : decodeOpc opc ops = .ok i) :
    Encodes (requestPacket opc ops) i := by
  unfold decodeOpc at h
  split at h
  case h_4 =>
    obtain ⟨col, row, rfl, rfl⟩ := decodeSetCursor_eq_ok_iff.mp h
    exact ⟨rfl, rfl⟩
  case h_5 | h_6 | h_7 | h_12 | h_15 | h_24 | h_25 | h_26 =>
    exact boolOperand_encodes (fun _ => ⟨rfl, rfl⟩) h
  case h_13 =>
    obtain ⟨loc, m0, m1, m2, m3, m4, m5, m6, m7, rfl, hloc, rfl⟩ := decodeCreateChar_eq_ok_iff.mp h
    exact ⟨hloc, rfl⟩
  case h_14 =>
    obtain ⟨text, htext, rfl⟩ := exceptMap_eq_ok_iff.mp h
    obtain rfl := textField_eq_ok htext
    exact ⟨rfl, rfl⟩
  case h_16 =>
    obtain ⟨n, rfl, rfl⟩ := decodeReadDeviceData_eq_ok_iff.mp h
    exact ⟨rfl, rfl⟩
  case h_22 =>
    obtain ⟨rows, cols, o0, o1, o2, o3, rfl, rfl⟩ := decodeIsCompatible_eq_ok_iff.mp h
    exact ⟨rfl, rfl⟩
  case h_27 =>
    obtain ⟨v, idx, rfl, rfl⟩ := decodeSetEnable_eq_ok_iff.mp h
    exact ⟨rfl, rfl⟩
  case h_28 =>
    obtain ⟨nib, rfl, rfl⟩ := decodeSetData_eq_ok_iff.mp h
    exact ⟨rfl, rfl⟩
  case h_31 =>
    obtain ⟨rs, nib, c, rfl, rfl⟩ := decodeWriteNibble_eq_ok_iff.mp h
    exact ⟨rfl, rfl⟩
  case h_32 =>
    obtain ⟨rs, b, c, rfl, rfl⟩ := decodeWriteByte_eq_ok_iff.mp h
    exact ⟨rfl, rfl⟩
  case h_33 =>
    obtain ⟨rs, c, rfl, rfl⟩ := decodeReadByte_eq_ok_iff.mp h
    exact ⟨rfl, rfl⟩
  case h_34 =>
    obtain ⟨c, rfl, rfl⟩ := byteOperand_eq_ok_iff.mp h
    exact ⟨rfl, rfl⟩
  case h_35 =>
    obtain ⟨rs, n, c, rfl, rfl⟩ := decodeReadBytes_eq_ok_iff.mp h
    exact ⟨rfl, rfl⟩
  case h_36 => cases h
  all_goals exact noOperand_encodes ⟨rfl, rfl⟩ h

/-! ### Bus frames (R71 to R76): each layout as bits, as a number, and as what the decoder takes apart -/

theorem packGeneric_bits (data : Nibble) (bl en rw rs : Bool) :
    let f := packGeneric data bl en rw rs
    f.getLsbD 0 = rs ∧ f.getLsbD 1 = rw ∧ f.getLsbD 2 = en ∧ f.getLsbD 3 = bl ∧
      ∀ k, k < 4 → f.getLsbD (4 + k) = data.getLsbD k := by
  revert data bl en rw rs; decide

theorem packAdafruit_bits (bl : Bool) (data : Nibble) (en rs : Bool) :
    let f := packAdafruit bl data en rs
    f.getLsbD 0 = false ∧ f.getLsbD 1 = rs ∧ f.getLsbD 2 = en ∧ f.getLsbD 7 = bl ∧
      ∀ k, k < 4 → f.getLsbD (3 + k) = data.getLsbD k := by
  revert bl data en rs; decide

theorem packDual_bits (data : Nibble) (bl en0 en1 rs : Bool) :
    let f := packDual data bl en0 en1 rs
    f.getLsbD 0 = rs ∧ f.getLsbD 1 = en1 ∧ f.getLsbD 2 = en0 ∧ f.getLsbD 3 = bl ∧
      ∀ k, k < 4 → f.getLsbD (4 + k) = data.getLsbD k := packGeneric_bits data bl en0 en1 rs

/-- Settles O3: each layout's bits, with the MCP23008's register before its byte. -/
theorem framesPlaceEverySignalAtItsBit : Obligations.FramesPlaceEverySignalAtItsBit := fun _ =>
  ⟨⟨_, rfl, packGeneric_bits _ _ _ _ _⟩, ⟨_, rfl, packAdafruit_bits _ _ _ _⟩, ⟨_, rfl, packDual_bits _ _ _ _ _⟩⟩

/-- DATA is the four bits from n on. -/
theorem extractLsb'_eq_of_bits {f : Byte} {data : Nibble} {n : Nat}
    (h : ∀ k, k < 4 → f.getLsbD (n + k) = data.getLsbD k) : f.extractLsb' n 4 = data := by
  apply BitVec.eq_of_getLsbD_eq
  intro k hk
  simp [h k hk, hk]

theorem decodeFrame_packGeneric (data : Nibble) (bl en rw rs : Bool) :
    decodeFrame .genericPcf8574t [packGeneric data bl en rw rs] = .ok (.frameGeneric data bl en rw rs) := by
  obtain ⟨hrs, hrw, hen, hbl, hdata⟩ := packGeneric_bits data bl en rw rs
  simp only [decodeFrame, hrs, hrw, hen, hbl, extractLsb'_eq_of_bits hdata]

theorem decodeFrame_packDual (data : Nibble) (bl en0 en1 rs : Bool) :
    decodeFrame .dualPcf8574t [packDual data bl en0 en1 rs] = .ok (.frameDual data bl en0 en1 rs) := by
  obtain ⟨hrs, hen1, hen0, hbl, hdata⟩ := packDual_bits data bl en0 en1 rs
  simp only [decodeFrame, hrs, hen1, hen0, hbl, extractLsb'_eq_of_bits hdata]

/-- The register 0x09 tells an encoder frame from the power-up frame. -/
theorem decodeFrame_packAdafruit (bl : Bool) (data : Nibble) (en rs : Bool) :
    decodeFrame .adafruitMcp23008 [adafruitGpioRegister, packAdafruit bl data en rs] =
      .ok (.frameAdafruit bl data en rs) := by
  obtain ⟨hzero, hrs, hen, hbl, hdata⟩ := packAdafruit_bits bl data en rs
  have hregister : ¬ [adafruitGpioRegister, packAdafruit bl data en rs] = powerupFrame := by
    simp [adafruitGpioRegister, powerupFrame]
  simp only [decodeFrame, hregister, hzero, hrs, hen, hbl, extractLsb'_eq_of_bits hdata, and_self, if_true, if_false]

theorem packGeneric_unpacked (f : Byte) :
    packGeneric (f.extractLsb' 4 4) (f.getLsbD 3) (f.getLsbD 2) (f.getLsbD 1) (f.getLsbD 0) = f := by
  revert f; decide

theorem packDual_unpacked (f : Byte) :
    packDual (f.extractLsb' 4 4) (f.getLsbD 3) (f.getLsbD 2) (f.getLsbD 1) (f.getLsbD 0) = f := packGeneric_unpacked f

/-- R72: bit 0 is always 0. -/
theorem packAdafruit_unpacked {f : Byte} (h : f.getLsbD 0 = false) :
    packAdafruit (f.getLsbD 7) (f.extractLsb' 3 4) (f.getLsbD 2) (f.getLsbD 1) = f := by
  revert f; decide

theorem decodeFrame_encodes {a : Adapter} {bytes : List Byte} {i : Instr} (h : decodeFrame a bytes = .ok i) :
    Encodes ⟨.busFrame a, fieldsOfBytes bytes⟩ i := by
  unfold decodeFrame at h
  split at h
  · next f =>
    cases h
    exact ⟨rfl, by rw [encode, packGeneric_unpacked]⟩
  · next f =>
    cases h
    exact ⟨rfl, by rw [encode, packDual_unpacked]⟩
  · next r f =>
    split_ifs at h with hpowerup hencoder
    · cases h
      exact ⟨rfl, by rw [encode, hpowerup]⟩
    · obtain ⟨rfl, hzero⟩ := hencoder
      cases h
      exact ⟨rfl, by rw [encode, packAdafruit_unpacked hzero]⟩
  · cases h

/-! ### HD44780 command bytes and nibbles (R78 to R87) -/

theorem decodeCommand_entryCommand (c : Byte) (incr shift : Bool) :
    decodeCommand c (entryCommand (entryFlags incr shift)) = .ok (.entryModeSet c incr shift) := by
  cases incr <;> cases shift <;> rfl

theorem decodeCommand_controlCommand (c : Byte) (display cursor blink : Bool) :
    decodeCommand c (controlCommand (controlFlags display cursor blink)) =
      .ok (.displayControl c display cursor blink) := by
  cases display <;> cases cursor <;> cases blink <;> rfl

theorem decodeCommand_shiftCommand (c : Byte) (right : Bool) :
    decodeCommand c (shiftCommand right) = .ok (.cursorDisplayShift c right) := by
  cases right <;> rfl

/-- A bit of the byte that a row's mask keeps and its match has clear shuts the byte out of that row. -/
theorem and_ne_of_bit {b mask value : Byte} {k : Nat} (hb : b.getLsbD k = true) (hmask : mask.getLsbD k = true)
    (hvalue : value.getLsbD k = false) : b &&& mask ≠ value := by
  rintro rfl
  simp [hb, hmask] at hvalue

/-- R85: bit 6 shuts the byte out of the rows tested before. -/
theorem decodeCommand_cgramCommand (c : Byte) (loc : BitVec 3) :
    decodeCommand c (cgramCommand (loc.setWidth 8)) = .ok (.setCgramAddr c loc) := by
  obtain ⟨hbit, hmatch, hloc⟩ : (cgramCommand (loc.setWidth 8)).getLsbD 6 = true ∧
      cgramCommand (loc.setWidth 8) &&& 0xC7 = 0x40 ∧ (cgramCommand (loc.setWidth 8)).extractLsb' 3 3 = loc := by
    revert loc; decide
  rw [decodeCommand, if_neg (and_ne_of_bit hbit rfl rfl), if_neg (and_ne_of_bit hbit rfl rfl),
    if_neg (and_ne_of_bit hbit rfl rfl), if_neg (and_ne_of_bit hbit rfl rfl), if_neg (and_ne_of_bit hbit rfl rfl),
    if_neg (and_ne_of_bit hbit rfl rfl), if_pos hmatch, hloc]

/-- R86: bit 7 shuts the byte out of the rows tested before. -/
theorem decodeCommand_ddramCommand (c : Byte) (addr : BitVec 7) :
    decodeCommand c (ddramCommand (addr.setWidth 8)) = .ok (.setDdramAddr c addr) := by
  obtain ⟨hbit, hmatch, haddr⟩ : (ddramCommand (addr.setWidth 8)).getLsbD 7 = true ∧
      ddramCommand (addr.setWidth 8) &&& 0x80 = 0x80 ∧ (ddramCommand (addr.setWidth 8)).extractLsb' 0 7 = addr := by
    revert addr; decide
  rw [decodeCommand, if_neg (and_ne_of_bit hbit rfl rfl), if_neg (and_ne_of_bit hbit rfl rfl),
    if_neg (and_ne_of_bit hbit rfl rfl), if_neg (and_ne_of_bit hbit rfl rfl), if_neg (and_ne_of_bit hbit rfl rfl),
    if_neg (and_ne_of_bit hbit rfl rfl), if_neg (and_ne_of_bit hbit rfl rfl), if_pos hmatch, haddr]

/-- No row of a command byte has an operand whose legal values its type does not fix. -/
theorem decodeCommand_wellFormed {c b : Byte} {i : Instr} (h : decodeCommand c b = .ok i) : i.wellFormed = true := by
  unfold decodeCommand at h
  split_ifs at h <;> cases h <;> rfl

theorem decodeNibble_encodes {c : Byte} {n : Nibble} {i : Instr} (h : decodeNibble c n = .ok i) :
    Encodes ⟨.lcdNibble c, [n.toNat]⟩ i := by
  unfold decodeNibble at h
  split_ifs at h with hreset hcommit
  · cases h
    exact ⟨rfl, by rw [hreset]; rfl⟩
  · cases h
    exact ⟨rfl, by rw [hcommit]; rfl⟩

/-! ### Packets -/

theorem oneByte_eq_ok_iff {k : Byte → Except Reject Instr} {fields : List Nat} {i : Instr} :
    oneByte k fields = .ok i ↔ ∃ b : Byte, fields = [b.toNat] ∧ k b = .ok i := by
  unfold oneByte
  split <;> simp_all

theorem decode_lcdNibble_eq_ok_iff {c : Byte} {fields : List Nat} {i : Instr} :
    decode ⟨.lcdNibble c, fields⟩ = .ok i ↔ ∃ n : Nibble, fields = [n.toNat] ∧ decodeNibble c n = .ok i := by
  rcases fields with _ | ⟨n, _ | ⟨m, rest⟩⟩ <;> simp [decode]

/-- A command byte reads as its instruction. -/
theorem decode_commandPacket {c b : Byte} {i : Instr} (h : decodeCommand c b = .ok i) :
    decode (commandPacket c b) = .ok i := oneByte_eq_ok_iff.mpr ⟨b, rfl, h⟩

/-- The bytes of a frame read as its instruction. -/
theorem decode_framePacket {a : Adapter} {bytes : List Byte} {i : Instr} (h : decodeFrame a bytes = .ok i) :
    decode ⟨.busFrame a, fieldsOfBytes bytes⟩ = .ok i := exceptBind_eq_ok_iff.mpr ⟨bytes, textField_fieldsOfBytes bytes, h⟩

/-- Settles O4: row by row, each form of operands reads back from its own fields. -/
theorem decodeOfEncodeIsTheInstruction : Obligations.DecodeOfEncodeIsTheInstruction := by
  intro i hwf
  cases i with
  | init | clear | home | scrollLeft | scrollRight | leftToRight | rightToLeft | readAddressCounter | supportsReads
  | defaultBusAddress | adapterSupportsReads | controllerCount | hardwareInit | writeStateToBus | encode => rfl
  | showCursor v | blinkCursor v | showDisplay v | autoscroll v | backlight v | setRs v | setRw v | setBacklight v =>
    exact boolOperand_eq_ok_iff.mpr ⟨v, rfl, rfl⟩
  | setCursor col row => exact decodeSetCursor_eq_ok_iff.mpr ⟨col, row, rfl, rfl⟩
  | createChar loc g => exact decodeCreateChar_eq_ok_iff.mpr ⟨loc, _, _, _, _, _, _, _, _, rfl, hwf, rfl⟩
  | print text => exact exceptMap_eq_ok_iff.mpr ⟨text, textField_fieldsOfBytes text, rfl⟩
  | readDeviceData n => rfl
  | isCompatible g => exact decodeIsCompatible_eq_ok_iff.mpr ⟨_, _, _, _, _, _, rfl, rfl⟩
  | setEnable v idx => exact decodeSetEnable_eq_ok_iff.mpr ⟨v, idx, rfl, rfl⟩
  | setData nib => exact decodeSetData_eq_ok_iff.mpr ⟨nib, rfl, rfl⟩
  | writeNibble rs nib c => exact decodeWriteNibble_eq_ok_iff.mpr ⟨rs, nib, c, rfl, rfl⟩
  | writeByte rs b c => exact decodeWriteByte_eq_ok_iff.mpr ⟨rs, b, c, rfl, rfl⟩
  | readByte rs c => exact decodeReadByte_eq_ok_iff.mpr ⟨rs, c, rfl, rfl⟩
  | busyPoll c => exact byteOperand_eq_ok_iff.mpr ⟨c, rfl, rfl⟩
  | readBytes rs n c => exact decodeReadBytes_eq_ok_iff.mpr ⟨rs, n, c, rfl, rfl⟩
  | frameGeneric data bl en rw rs => exact decode_framePacket (decodeFrame_packGeneric data bl en rw rs)
  | frameAdafruit bl data en rs => exact decode_framePacket (decodeFrame_packAdafruit bl data en rs)
  | powerupAdafruit => exact decode_framePacket rfl
  | frameDual data bl en0 en1 rs => exact decode_framePacket (decodeFrame_packDual data bl en0 en1 rs)
  | readNibbleGeneric => rfl
  | clearDisplay c | returnHome c | functionSet c => exact decode_commandPacket rfl
  | entryModeSet c incr shift => exact decode_commandPacket (decodeCommand_entryCommand c incr shift)
  | displayControl c display cursor blink =>
    exact decode_commandPacket (decodeCommand_controlCommand c display cursor blink)
  | cursorDisplayShift c right => exact decode_commandPacket (decodeCommand_shiftCommand c right)
  | setCgramAddr c loc => exact decode_commandPacket (decodeCommand_cgramCommand c loc)
  | setDdramAddr c addr => exact decode_commandPacket (decodeCommand_ddramCommand c addr)
  | handshakeNibble3 c | handshakeNibble2 c | statusRead c | dataRead c => rfl
  | dataWrite c b => exact oneByte_eq_ok_iff.mpr ⟨b, rfl, rfl⟩

theorem decode_request_encodes {fields : List Nat} {i : Instr} (h : decode ⟨.request, fields⟩ = .ok i) :
    Encodes ⟨.request, fields⟩ i := by
  cases fields with
  | nil => cases h
  | cons opc ops => exact decodeOpc_encodes h

/-- Settles O5: channel by channel; a command byte is well-formed but may have bits that its row ignores. -/
theorem decodedInstructionsAreWellFormedAndReencode : Obligations.DecodedInstructionsAreWellFormedAndReencode := by
  rintro ⟨channel, fields⟩ i h
  have hexact (hencodes : Encodes ⟨channel, fields⟩ i) :
      i.wellFormed = true ∧ ((∀ c, channel ≠ .lcdCommand c) → encode i = ⟨channel, fields⟩) :=
    ⟨hencodes.1, fun _ => hencodes.2⟩
  cases channel with
  | request => exact hexact (decode_request_encodes h)
  | busFrame a =>
    obtain ⟨bytes, hbytes, hframe⟩ := exceptBind_eq_ok_iff.mp h
    obtain rfl := textField_eq_ok hbytes
    exact hexact (decodeFrame_encodes hframe)
  | busRead =>
    obtain ⟨rfl, rfl⟩ := noOperand_eq_ok_iff.mp h
    exact hexact ⟨rfl, rfl⟩
  | lcdCommand c =>
    obtain ⟨b, -, hcommand⟩ := oneByte_eq_ok_iff.mp h
    exact ⟨decodeCommand_wellFormed hcommand, fun hother => absurd rfl (hother c)⟩
  | lcdNibble c =>
    obtain ⟨n, rfl, hnibble⟩ := decode_lcdNibble_eq_ok_iff.mp h
    exact hexact (decodeNibble_encodes hnibble)
  | lcdData c =>
    obtain ⟨b, rfl, ⟨⟩⟩ := oneByte_eq_ok_iff.mp h
    exact hexact ⟨rfl, rfl⟩
  | lcdRead rs c =>
    obtain ⟨rfl, rfl⟩ := noOperand_eq_ok_iff.mp h
    cases rs <;> exact hexact ⟨rfl, rfl⟩

/-- Settles O7: the decoder runs on each packet. -/
theorem specWordsDecode : Obligations.SpecWordsDecode :=
  ⟨rfl, rfl, rfl, rfl, rfl, rfl, rfl, rfl, rfl⟩

/-! ### Refused requests (R95, R242) -/

theorem decodeOpc_unassigned {opc : Nat}
    (h : opc = 0 ∨ (0x13 ≤ opc ∧ opc ≤ 0x1F) ∨ (0x2C ≤ opc ∧ opc ≤ 0x2F) ∨ 0x35 ≤ opc) (ops : List Nat) :
    decodeOpc opc ops = .error (.unassignedOpc opc) := by
  unfold decodeOpc
  split
  case h_36 => rfl
  all_goals omega

theorem byteField_fits {n : Nat} (h : n ≤ 0xFF) : byteField n = .ok (BitVec.ofNat 8 n) := if_pos (by omega)

theorem boolOperand_large {n : Nat} (h : 1 < n) (mk : Bool → Instr) :
    boolOperand mk [n] = .error .operandDoesNotFit := by
  rw [boolOperand, boolField_large h, Except.map]

theorem decodeSetData_large {n : Nat} (h : 0xF < n) : decodeSetData [n] = .error .operandDoesNotFit := by
  rw [decodeSetData, nibbleField_large h, Except.map]

/-- COL is read first: where it fits, ROW does not. -/
theorem decodeSetCursor_large {col row : Nat} (h : 0xFF < col ∨ 0xFF < row) :
    decodeSetCursor [col, row] = .error .operandDoesNotFit := by
  by_cases hcol : 0xFF < col
  · rw [decodeSetCursor, byteField_large hcol]
    rfl
  · rw [decodeSetCursor, byteField_fits (Nat.not_lt.mp hcol), byteField_large (h.resolve_left hcol)]
    rfl

/-- Every field of the request is a byte, and the check of `LOC` itself fails. -/
theorem decodeCreateChar_large {loc : Nat} {ms : List Nat} (hloc : 8 ≤ loc) (hbyte : loc ≤ 0xFF)
    (hlength : ms.length = 8) (hms : ∀ m ∈ ms, m ≤ 0xFF) :
    decodeCreateChar (loc :: ms) = .error .operandDoesNotFit := by
  have hult : (BitVec.ofNat 8 loc).ult 8 = false := by
    simp [BitVec.ult, Nat.mod_eq_of_lt (show loc < 256 by omega), hloc]
  match ms, hlength with
  | [m0, m1, m2, m3, m4, m5, m6, m7], _ =>
    simp only [List.forall_mem_cons] at hms
    obtain ⟨h0, h1, h2, h3, h4, h5, h6, h7, -⟩ := hms
    rw [decodeCreateChar, byteField_fits hbyte, byteField_fits h0, byteField_fits h1, byteField_fits h2,
      byteField_fits h3, byteField_fits h4, byteField_fits h5, byteField_fits h6, byteField_fits h7]
    exact if_neg (Bool.eq_false_iff.mp hult)

end Sys2Proof

namespace Sys2Proof.Machine

open Sys2Proof.Claims

theorem runPacket_error {p : Packet} {r : Reject} (h : decode p = .error r) (s : State) :
    runPacket p s = .refused (.badRequest r) := by
  rw [runPacket, h]

/-- Settles O6: what decodes is an encoding, so anything else is rejected; the later clauses are the decoder's own names. -/
theorem illegalRequestsAreRefused : Obligations.IllegalRequestsAreRefused := by
  intro s fields rest hfault hjob hrequests
  have hrefused {r : Reject} (h : decode ⟨.request, fields⟩ = .error r) : step s = .refused (.badRequest r) :=
    (step_request hfault hjob hrequests).trans (runPacket_error h _)
  refine ⟨fun hnone => ?_, ?_, ?_, ?_, ?_, ?_⟩
  · cases hdecode : decode ⟨.request, fields⟩ with
    | ok i =>
      obtain ⟨hwf, hencode⟩ := decode_request_encodes hdecode
      exact absurd hencode (hnone i hwf)
    | error r => exact ⟨r, hrefused hdecode⟩
  · rintro opc ops rfl hopc
    exact hrefused (decodeOpc_unassigned hopc ops)
  · rintro n hn rfl
    exact hrefused (decodeSetData_large hn)
  · rintro opc n hopc hn rfl
    simp only [List.mem_cons, List.not_mem_nil, or_false] at hopc
    rcases hopc with rfl | rfl | rfl | rfl | rfl | rfl | rfl | rfl <;> exact hrefused (boolOperand_large hn _)
  · rintro col row hlarge rfl
    exact hrefused (decodeSetCursor_large hlarge)
  · rintro loc ms hloc hbyte hlength hms rfl
    exact hrefused (decodeCreateChar_large hloc hbyte hlength hms)

/-! ### The nibble and transfer rows (R77, R87 to R89) -/

/-- R141 on a bus that acknowledges, in the rules' own words. -/
theorem writeNibble_eq_nibbleSent {s : State} {c : Byte} (hc : c.toNat < count s) (h : Acks s 2) (rs : Bool)
    (nib : Nibble) : writeNibble rs nib c s = (.ok (), nibbleSent rs nib c s) := writeNibble_acked hc h rs nib

theorem dataByte_eq_dataSent {s : State} {c : Byte} (hc : c.toNat < count s) (h : Acks s 4) (b : Byte) :
    dataByte c b s = (.ok (), dataSent c s b) := by
  rw [dataByte_acked hc h, writeByte_eq_byteSent hc h]
  rfl

/-- R147, R148 on a bus that acknowledges, in the rules' own words. -/
theorem readByte_eq_readSent {s : State} (hg : s.cfg.adapter = .genericPcf8574t) (h : Acks s 8) (rs : Bool) :
    readByte rs 0 s = (.ok (byteRead s 2), readSent rs s) := by
  rw [readByte_acked hg h, joinNibbles_nibbleOf]
  rfl

/-- The PCF8574T has one controller. -/
theorem eq_zero_of_lt_count {s : State} {c : Byte} (hg : s.cfg.adapter = .genericPcf8574t) (hc : c.toNat < count s) :
    c = 0 := by
  rw [count, hg, controllerCountOf] at hc
  exact BitVec.eq_of_toNat_eq (Nat.lt_one_iff.mp hc)

/-- Settles O48: each row is the engine's own sequence, which an acknowledging bus lets run to its end. -/
theorem nibbleAndTransferRowsComplete : Obligations.NibbleAndTransferRowsComplete := by
  intro s c b hc
  refine ⟨fun hacks => ⟨?_, ?_⟩, fun hacks => ?_, fun hg hacks => ?_⟩
  · exact complete_ok (writeNibble_eq_nibbleSent hc hacks false 0x3)
  · exact complete_ok (writeNibble_eq_nibbleSent hc hacks false 0x2)
  · exact complete_ok (dataByte_eq_dataSent hc hacks b)
  · obtain rfl := eq_zero_of_lt_count hg hc
    have hread (rs : Bool) : whenReadable s (complete .byte (readByte rs 0) s) =
        .next (returned (.byte (byteRead s 2)) (readSent rs s)) :=
      (whenReadable_reads hg _).trans (complete_returned (readByte_eq_readSent hg hacks rs))
    exact ⟨hread false, hread true⟩

/-! ### The frame rows (R71 to R74, R110, R117) -/

theorem whenAdapter_refused {a : Adapter} {s : State} (ha : s.cfg.adapter ≠ a) (k : Outcome) :
    whenAdapter a s k = .refused .frameOfOtherAdapter := if_neg ha

/-- R76: each of the five rows that are a frame of some adapter has a meaning on that adapter only. -/
theorem exec_frame_of_other_adapter {i : Instr} {a : Adapter} {s : State} (hi : frameAdapter i = some a)
    (ha : s.cfg.adapter ≠ a) : exec i s = .refused .frameOfOtherAdapter := by
  unfold frameAdapter at hi
  split at hi <;> cases hi <;> exact whenAdapter_refused ha _

/-- Staging steps that leave the signals g, then one write of their frame, on a bus that acknowledges it. -/
theorem complete_staged_write {ops : List (Op Unit)} {s : State} {g : SignalState} {bytes : List Byte} (h : Acks s 1)
    (hops : seqOps ops s = seqOps [writeStateToBus] { s with sig := g })
    (hbytes : encodeFrame s.cfg.adapter g = bytes) :
    complete okValue (seqOps ops) s = .next (returned .ok (sent s [.busWrite s.cfg.busAddr bytes] 1 g)) := by
  subst hbytes
  exact complete_ok (hops.trans (seqOps_write_after (n := 0) h []))

section FrameRows

variable {s : State} (data : Nibble) (bl en0 en1 rw rs : Bool)

theorem exec_frameGeneric (hg : s.cfg.adapter = .genericPcf8574t) (h : Acks s 1) :
    exec (.frameGeneric data bl en0 rw rs) s = .next (returned .ok (sent s
      [.busWrite s.cfg.busAddr [packGeneric data bl en0 rw rs]] 1
      { s.sig with data := data, bl := bl, en0 := en0, rw := rw, rs := rs })) := by
  refine (whenAdapter_eq hg _).trans (complete_staged_write h ?_ (by rw [hg]; rfl))
  rw [seqOps_cons_setRs, seqOps_cons_setRw, seqOps_cons_setBacklight,
    seqOps_cons_setEnable (by simp [hg, controllerCountOf]), seqOps_cons_setData]
  simp [hg, hasRwOf, withEnable]

theorem exec_frameAdafruit (hg : s.cfg.adapter = .adafruitMcp23008) (h : Acks s 1) :
    exec (.frameAdafruit bl data en0 rs) s = .next (returned .ok (sent s
      [.busWrite s.cfg.busAddr [0x09, packAdafruit bl data en0 rs]] 1
      { s.sig with data := data, bl := bl, en0 := en0, rs := rs })) := by
  refine (whenAdapter_eq hg _).trans (complete_staged_write h ?_ (by rw [hg]; rfl))
  rw [seqOps_cons_setRs, seqOps_cons_setBacklight, seqOps_cons_setEnable (by simp [hg, controllerCountOf]),
    seqOps_cons_setData]
  simp [withEnable]

theorem exec_frameDual (hg : s.cfg.adapter = .dualPcf8574t) (h : Acks s 1) :
    exec (.frameDual data bl en0 en1 rs) s = .next (returned .ok (sent s
      [.busWrite s.cfg.busAddr [packDual data bl en0 en1 rs]] 1
      { s.sig with data := data, bl := bl, en0 := en0, en1 := en1, rs := rs })) := by
  refine (whenAdapter_eq hg _).trans (complete_staged_write h ?_ (by rw [hg]; rfl))
  rw [seqOps_cons_setRs, seqOps_cons_setBacklight, seqOps_cons_setEnable (by simp [hg, controllerCountOf]),
    seqOps_cons_setEnable (by simp [hg, controllerCountOf]), seqOps_cons_setData]
  simp [withEnable]

/-- R74: the power-up frame leaves the signals as they are. -/
theorem exec_powerupAdafruit (hg : s.cfg.adapter = .adafruitMcp23008) (h : Acks s 1) :
    exec .powerupAdafruit s =
      .next (returned .ok (sent s [.busWrite s.cfg.busAddr [0x00, 0x00]] 1 s.sig)) := by
  obtain ⟨b, hb⟩ := h.next
  refine (whenAdapter_eq hg _).trans (complete_ok ?_)
  rw [memWrite_ok hb]
  exact congrArg (Prod.mk _) (issue_eq_after s _ s.sig)

end FrameRows

theorem packGeneric_eq_ofNat (data : Nibble) (bl en rw rs : Bool) : packGeneric data bl en rw rs =
    BitVec.ofNat 8 (16 * data.toNat + 8 * (if bl then 1 else 0) + 4 * (if en then 1 else 0) +
      2 * (if rw then 1 else 0) + if rs then 1 else 0) := by
  revert data bl en rw rs; decide

theorem packDual_eq_ofNat (data : Nibble) (bl en0 en1 rs : Bool) : packDual data bl en0 en1 rs =
    BitVec.ofNat 8 (16 * data.toNat + 8 * (if bl then 1 else 0) + 4 * (if en0 then 1 else 0) +
      2 * (if en1 then 1 else 0) + if rs then 1 else 0) := packGeneric_eq_ofNat data bl en0 en1 rs

theorem packAdafruit_eq_ofNat (bl : Bool) (data : Nibble) (en rs : Bool) : packAdafruit bl data en rs =
    BitVec.ofNat 8 (128 * (if bl then 1 else 0) + 8 * data.toNat + 4 * (if en then 1 else 0) +
      2 * (if rs then 1 else 0)) := by
  revert bl data en rs; decide

/-- Settles O44: a row refuses another adapter's frame, and on its own adapter stages its signals and sends their frame. -/
theorem frameRowsPutTheirOwnBytesOnTheBus : Obligations.FrameRowsPutTheirOwnBytesOnTheBus := by
  intro s data bl en0 en1 rw rs
  dsimp only
  rw [← packGeneric_eq_ofNat, ← packAdafruit_eq_ofNat, ← packDual_eq_ofNat]
  exact ⟨fun _ _ hi ha => exec_frame_of_other_adapter hi ha, fun hacks =>
    ⟨fun hg => exec_frameGeneric data bl en0 rw rs hg hacks,
      fun hg => ⟨exec_frameAdafruit data bl en0 rs hg hacks, exec_powerupAdafruit hg hacks⟩,
      fun hg => exec_frameDual data bl en0 en1 rs hg hacks⟩⟩

end Sys2Proof.Machine
end

section
/-! PROOFS of the adapter port statements (spec 40_encoder_adapter.md): the queries (R101 to R106, R203), the setters (R112 to
R116), the one write of `write_state_to_bus` (R110) and the power-up write of `hardware_init` (R111). -/

namespace Sys2Proof.Machine

open Sys2Proof.Claims

/-! ### The values fixed by the adapter (R7, R103 to R105), as conditions on it -/

theorem supportsReadsOf_eq (a : Adapter) : supportsReadsOf a = decide (a = .genericPcf8574t) := by
  cases a <;> rfl

theorem hasRwOf_iff (a : Adapter) : hasRwOf a = true ↔ a = .genericPcf8574t := by
  cases a <;> decide

theorem controllerCountOf_eq (a : Adapter) : controllerCountOf a = if a = .dualPcf8574t then 2 else 1 := by
  cases a <;> rfl

theorem isCompatibleWith_eq (a : Adapter) (g : Geometry) :
    isCompatibleWith a g = decide ((g.rows = 4 ∧ g.cols = 40) ↔ a = .dualPcf8574t) := by
  have is40x4 : (g.rows == 4 && g.cols == 40) = decide (g.rows = 4 ∧ g.cols = 40) := (Bool.decide_and _ _).symm
  unfold isCompatibleWith
  rw [is40x4]
  cases a with
  | dualPcf8574t => simp
  | genericPcf8574t | adafruitMcp23008 => simp

/-- R110: the MCP23008 takes its register and the pins' byte, the others the pins' byte alone. -/
theorem encodeFrame_length (a : Adapter) (g : SignalState) :
    (encodeFrame a g).length = if a = .adafruitMcp23008 then 2 else 1 := by
  cases a <;> rfl

/-! ### Queries -/

/-- R106: a query gives its value and leaves everything else. -/
theorem answer_eq_returned (v : State → Value) (s : State) : answer v s = .next (returned (v s) s) := rfl

/-- Settles O10: each query is the answer of its value, and the value is the rule's. -/
theorem queriesAnswerWithoutEffect : Obligations.QueriesAnswerWithoutEffect := by
  intro s g
  rw [← supportsReadsOf_eq, ← controllerCountOf_eq, ← isCompatibleWith_eq]
  exact ⟨answer_eq_returned _ s, answer_eq_returned _ s, answer_eq_returned _ s, answer_eq_returned _ s,
    answer_eq_returned _ s, answer_eq_returned _ s⟩

/-! ### Setters -/

/-- R113: without an RW line nothing is written. -/
theorem setRw_eq (v : Bool) (s : State) : setRw v s =
    (.ok (), if s.cfg.adapter = .genericPcf8574t then { s with sig := { s.sig with rw := v } } else s) := by
  simp only [setRw, update_apply, hasRwOf_iff]

/-- Settles O11: the requests are the setters' encodings, and each setter is one update of the signals. -/
theorem settersStageOneSignal : Obligations.SettersStageOneSignal := fun s v nib =>
  ⟨decodeOfEncodeIsTheInstruction (.setRs v) rfl, decodeOfEncodeIsTheInstruction (.setRw v) rfl,
    decodeOfEncodeIsTheInstruction (.setBacklight v) rfl, decodeOfEncodeIsTheInstruction (.setData nib) rfl,
    complete_ok rfl, complete_ok (setRw_eq v s), complete_ok rfl, complete_ok rfl⟩

theorem setEnable_eq_withEnable {s : State} {c : Byte} (hc : c.toNat < count s) (v : Bool) :
    setEnable v c s = (.ok (), { s with sig := withEnable v c s.sig }) := if_pos hc

/-- R115: the failing call comes before any write. -/
theorem setEnable_bad {s : State} {c : Byte} (hc : ¬ c.toNat < count s) (v : Bool) :
    setEnable v c s = (.error (.badControllerId c), s) := if_neg hc

/-- No adapter has more than two controllers, so an index that names one is 0 or 1. -/
theorem withEnable_of_lt_count {s : State} {c : Byte} (hc : c.toNat < count s) (v : Bool) (g : SignalState) :
    withEnable v c g = if c.toNat = 0 then { g with en0 := v } else { g with en1 := v } := by
  have htwo : c.toNat < 2 := by
    rw [count, controllerCountOf_eq] at hc
    split_ifs at hc <;> omega
  by_cases hzero : c.toNat = 0
  · obtain rfl : c = 0 := BitVec.eq_of_toNat_eq hzero
    rfl
  · obtain rfl : c = 1 := BitVec.eq_of_toNat_eq (show c.toNat = 1 by omega)
    rfl

/-- Settles O12: `set_enable` writes the line of an index that names a controller, and raises its error at any other. -/
theorem setEnableWritesOrReportsBadControllerId : Obligations.SetEnableWritesOrReportsBadControllerId := by
  intro s v idx
  refine ⟨decodeOfEncodeIsTheInstruction (.setEnable v idx) rfl, ?_⟩
  by_cases hidx : idx.toNat < count s
  · rw [if_pos hidx, ← withEnable_of_lt_count hidx]
    exact complete_ok (setEnable_eq_withEnable hidx v)
  · rw [if_neg hidx]
    exact complete_error (setEnable_bad hidx v)

/-! ### The two operations that write to the bus -/

section BusWrite

variable {s : State}

theorem memWrite_eq_sent {b : Byte} (h : answerAt s 0 = .ok b) (bytes : List Byte) :
    memWrite bytes s = (.ok (), sent s [.busWrite s.cfg.busAddr bytes] 1 s.sig) :=
  (memWrite_ok ((nextAnswer_eq_answerAt s).trans h) bytes).trans (congrArg (Prod.mk _) (issue_eq_after s _ s.sig))

/-- R52: the event of a failed write stays recorded. -/
theorem memWrite_eq_sent_err {e : Nat} (h : answerAt s 0 = .err e) (bytes : List Byte) :
    memWrite bytes s = (.error (.busError e), sent s [.busWrite s.cfg.busAddr bytes] 1 s.sig) :=
  (memWrite_err ((nextAnswer_eq_answerAt s).trans h) bytes).trans (congrArg (Prod.mk _) (issue_eq_after s _ s.sig))

theorem hardwareInit_mcp (ha : s.cfg.adapter = .adafruitMcp23008) :
    hardwareInit s = memWrite [0x00, 0x00] s := by
  rw [hardwareInit, ha]
  rfl

theorem hardwareInit_no_op (ha : s.cfg.adapter ≠ .adafruitMcp23008) : hardwareInit s = (.ok (), s) := by
  unfold hardwareInit
  cases h : s.cfg.adapter with
  | adafruitMcp23008 => exact absurd h ha
  | genericPcf8574t | dualPcf8574t => rfl

end BusWrite

/-- Settles O13: the operation is one write of the frame, whatever the bus answers to it. -/
theorem writeStateToBusSendsOneFrame : Obligations.WriteStateToBusSendsOneFrame := fun s =>
  ⟨decodeOfEncodeIsTheInstruction .writeStateToBus rfl, encodeFrame_length s.cfg.adapter s.sig,
    fun _ hok => complete_ok (memWrite_eq_sent hok _), fun _ herr => complete_error (memWrite_eq_sent_err herr _)⟩

/-- Settles O14: one write of the power-up bytes on the MCP23008, and no step at all on the other adapters. -/
theorem hardwareInitWritesIodirOnTheMcp23008Only : Obligations.HardwareInitWritesIodirOnTheMcp23008Only := fun _ =>
  ⟨decodeOfEncodeIsTheInstruction .hardwareInit rfl, fun hother => complete_ok (hardwareInit_no_op hother),
    fun _ hmcp hok => complete_ok ((hardwareInit_mcp hmcp).trans (memWrite_eq_sent hok _)),
    fun _ hmcp herr => complete_error ((hardwareInit_mcp hmcp).trans (memWrite_eq_sent_err herr _))⟩

end Sys2Proof.Machine
end

section
/-! PROOFS of the protocol engine statements (spec 41_protocol_engine.md): a nibble write whose frames fail (R141), the engine
at a bad index (R237), one poll iteration and one byte read (R147, R150), and a read in progress from step to step (R151,
R152). -/

namespace Sys2Proof.Machine

open Sys2Proof.Claims

/-! ### The step (R151, R240) -/

/-- R245: an iteration of a read takes no request. -/
theorem jobStep_requests (j : ReadJob) (s : State) : (jobStep j s).requests = s.requests := by
  obtain ⟨_, _, -, -, -, -, -, -, hrequests, -⟩ := jobStep_exact j s
  exact hrequests

/-- Settles O9: a fault stops the step, and a read in progress takes its next iteration. -/
theorem stepInAFaultOrAnOperationInProgress : Obligations.StepInAFaultOrAnOperationInProgress := by
  refine fun s => ⟨fun f hfault => step_fault hfault, fun hfault hreading => ?_⟩
  obtain ⟨j, hjob⟩ := Option.isSome_iff_exists.mp hreading
  exact ⟨jobStep j s, step_job hfault hjob, jobStep_requests j s⟩

/-! ### A nibble write and the bus's answers (R141, R270) -/

/-- R52, R110: the frame written after m transactions is recorded, and its failure ends the sequence. -/
theorem seqOps_write_fails_after {s : State} {m e : Nat} (h : answerAt s m = .err e) (evs : List Event)
    (g : SignalState) (rest : List (Op Unit)) : seqOps (writeStateToBus :: rest) (after s evs m g) =
      (.error (.busError e), after s (evs ++ [frameEvent s g]) (m + 1) g) := by
  have hnext : answerAt (after s evs m g) 0 = .err e := by rw [answerAt_after, Nat.add_zero, h]
  rw [← after_after]
  exact seqOps_cons_error (memWrite_eq_sent_err hnext _)

section NibbleWrite

variable {s : State} {c : Byte} (hc : c.toNat < count s) (rs : Bool) (nib : Nibble)
include hc

/-- R141 up to its first frame: the signals are staged and the enable line is raised. -/
theorem writeNibble_eq_frames : writeNibble rs nib c s =
    seqOps [writeStateToBus, setEnable false c, writeStateToBus]
      { s with sig := strobe s.cfg.adapter rs nib c true s.sig } := by
  rw [writeNibble, seqOps_staged]
  exact seqOps_cons_setEnable (s := { s with sig := stagedSig s.cfg.adapter rs nib s.sig }) hc true _

theorem writeNibble_first_frame_fails {e : Nat} (herr : answerAt s 0 = .err e) : writeNibble rs nib c s =
    (.error (.busError e), sent s [frame s (strobe s.cfg.adapter rs nib c true s.sig)] 1
      (strobe s.cfg.adapter rs nib c true s.sig)) := by
  rw [writeNibble_eq_frames hc]
  exact seqOps_cons_error
    (memWrite_eq_sent_err (s := { s with sig := strobe s.cfg.adapter rs nib c true s.sig }) herr _)

theorem writeNibble_second_frame_fails {b : Byte} {e : Nat} (hok : answerAt s 0 = .ok b)
    (herr : answerAt s 1 = .err e) : writeNibble rs nib c s =
    (.error (.busError e), sent s [frame s (strobe s.cfg.adapter rs nib c true s.sig),
        frame s (strobe s.cfg.adapter rs nib c false s.sig)] 2
      (strobe s.cfg.adapter rs nib c false s.sig)) := by
  have hacks : Acks s (0 + 1) := fun k hk => by
    obtain rfl : k = 0 := by omega
    rw [hok]
    rfl
  have hlowered : withEnable false c (strobe s.cfg.adapter rs nib c true s.sig) =
      strobe s.cfg.adapter rs nib c false s.sig := withEnable_strobeSig _ _ _ _ _ _ _
  rw [writeNibble_eq_frames hc, seqOps_write_after hacks, seqOps_cons_setEnable (s := after s _ _ _) hc, after_sig,
    hlowered]
  exact seqOps_write_fails_after herr _ _ []

end NibbleWrite

/-- Settles O15: both frames acknowledged, or the first or the second one failing. -/
theorem writeNibbleStrobesTheEnableLine : Obligations.WriteNibbleStrobesTheEnableLine := fun _ rs nib _ _ hc =>
  ⟨fun hacks => complete_ok (writeNibble_eq_nibbleSent hc hacks rs nib),
    fun herr => complete_error (writeNibble_first_frame_fails hc rs nib herr),
    fun _ hok herr => complete_error (writeNibble_second_frame_fails hc rs nib hok herr)⟩

/-! ### One iteration of a read in progress (R147, R150, R152) -/

/-- The operation with one more byte read and one less to read (R152). -/
def withByte (j : ReadJob) (b : Byte) : ReadJob := { j with remaining := j.remaining - 1, out := j.out ++ [b] }

/-- After a clear poll and its byte, with the operation still in progress (R152). -/
def byteTaken (j : ReadJob) (s : State) : State :=
  { pollReadSent j.rs s with job := some (withByte j (byteRead s 9)) }

/-- R147, R150: the setup write of a read checks the index after it has staged RS, RW and DATA. -/
theorem readSetup_bad {s : State} {c : Byte} (hg : s.cfg.adapter = .genericPcf8574t) (hc : count s ≤ c.toNat)
    (rs : Bool) : readSetup rs c s =
      (.error (.badControllerId c), { s with sig := { s.sig with rs := rs, rw := true, data := 0xF } }) := by
  unfold readSetup
  simp only [seqOps_cons_setRs, seqOps_cons_setRw, seqOps_cons_setData, hg, hasRwOf, if_true]
  exact seqOps_cons_setEnable_bad (s := { s with sig := { s.sig with rs := rs, rw := true, data := 0xF } }) hc _ _

/-- R150: a poll at a bad index fails before its first write. -/
theorem pollOnce_bad {s : State} {c : Byte} (hg : s.cfg.adapter = .genericPcf8574t) (hc : count s ≤ c.toNat) :
    pollOnce c s =
      (.error (.badControllerId c), { s with sig := { s.sig with rs := false, rw := true, data := 0xF } }) :=
  opBind_error (opBind_error (readSetup_bad hg hc false))

/-- R237: a read operation whose poll fails at its index ends at once. -/
theorem jobStep_bad {s : State} {j : ReadJob} (hg : s.cfg.adapter = .genericPcf8574t) (hc : count s ≤ j.c.toNat) :
    jobStep j s = failed (.badControllerId j.c)
      { s with sig := { s.sig with rs := false, rw := true, data := 0xF }, job := none } :=
  jobStep_error (pollOnce_bad hg hc)

section Acknowledged

variable {s : State} (hg : s.cfg.adapter = .genericPcf8574t)

theorem answerAt_pollSent (s : State) (k : Nat) : answerAt (pollSent s) k = answerAt s (7 + k) :=
  answerAt_after s _ 7 _ k

theorem acks_pollSent {n : Nat} (h : Acks s (7 + n)) : Acks (pollSent s) n := acks_after h _ _

theorem answerAt_pollReadSent (rs : Bool) (s : State) (k : Nat) :
    answerAt (pollReadSent rs s) k = answerAt s (15 + k) := by
  have hread : answerAt (pollReadSent rs s) k = answerAt (pollSent s) (8 + k) := answerAt_after (pollSent s) _ 8 _ k
  rw [hread, answerAt_pollSent, ← Nat.add_assoc]

theorem acks_pollReadSent {n : Nat} (rs : Bool) (h : Acks s (15 + n)) : Acks (pollReadSent rs s) n := fun k hk => by
  rw [answerAt_pollReadSent]
  exact h (15 + k) (by omega)

theorem busyIn_pollSent (s : State) (k : Nat) : busyIn (pollSent s) k = busyIn s (7 + k) := by
  rw [busyIn, answerAt_pollSent, busyIn]

theorem busyIn_pollReadSent (rs : Bool) (s : State) (k : Nat) :
    busyIn (pollReadSent rs s) k = busyIn s (15 + k) := by
  rw [busyIn, answerAt_pollReadSent, busyIn]

theorem byteRead_pollSent (s : State) (k : Nat) : byteRead (pollSent s) k = byteRead s (7 + k) := by
  simp only [byteRead, answerAt_pollSent, Nat.add_assoc]

theorem byteRead_pollReadSent (rs : Bool) (s : State) (k : Nat) :
    byteRead (pollReadSent rs s) k = byteRead s (15 + k) := by
  simp only [byteRead, answerAt_pollReadSent, Nat.add_assoc]

include hg

/-- R88, R150: the flag of an iteration is bit 7 of the byte it read. -/
theorem pollOnce_eq_pollSent (h : Acks s 7) : pollOnce 0 s = (.ok (busyIn s 2), pollSent s) := by
  rw [pollOnce_acked hg h, busyFlag_nibbleOf]
  rfl

variable {j : ReadJob} (hc : j.c = 0)
include hc

/-- R151: while the flag is set the operation stays as it is. -/
theorem jobStep_busy_flag (h : Acks s 7) (hbusy : busyIn s 2 = true) :
    jobStep j s = { pollSent s with job := some j } :=
  jobStep_busy (by rw [hc, pollOnce_eq_pollSent hg h, hbusy])

theorem jobStep_clear_flag (h : Acks s 7) (hclear : busyIn s 2 = false) : jobStep j s = jobRead j (pollSent s) :=
  jobStep_clear (by rw [hc, pollOnce_eq_pollSent hg h, hclear])

theorem jobStep_poll_returns (hkind : j.kind = .busyPoll) (h : Acks s 7) (hclear : busyIn s 2 = false) :
    jobStep j s = returned .ok { pollSent s with job := none } :=
  (jobStep_clear_flag hg hc h hclear).trans (jobRead_poll hkind _)

variable (hkind : j.kind ≠ .busyPoll) (h : Acks s 15) (hclear : busyIn s 2 = false)
include hkind h hclear

/-- R152: after a poll that finds the flag clear, the byte of answers 9 and 12 is read. -/
theorem jobStep_takes_byte : jobStep j s = jobNext j (byteRead s 9) (pollReadSent j.rs s) := by
  have hread : readByte j.rs j.c (pollSent s) = (.ok (byteRead (pollSent s) 2), pollReadSent j.rs s) := by
    rw [hc]
    exact readByte_eq_readSent (s := pollSent s) hg (acks_pollSent h) j.rs
  rw [jobStep_clear_flag hg hc (h.mono (by omega)) hclear, jobRead_ok hkind hread, byteRead_pollSent]

theorem jobStep_goes_on (hmore : 1 < j.remaining) : jobStep j s = byteTaken j s :=
  (jobStep_takes_byte hg hc hkind h hclear).trans (jobNext_more hmore _ _)

theorem jobStep_returns (hlast : j.remaining ≤ 1) : jobStep j s =
    returned (jobValue j.kind (j.out ++ [byteRead s 9])) { pollReadSent j.rs s with job := none } :=
  (jobStep_takes_byte hg hc hkind h hclear).trans (jobNext_last hlast _ _)

end Acknowledged

/-- R152, R200: what a read of bytes returns. -/
theorem jobValue_bytes {k : ReadKind} (hk : k = .readBytes ∨ k = .readDeviceData) (out : List Byte) :
    jobValue k out = .bytes out := by
  rcases hk with rfl | rfl <;> rfl

theorem ne_busyPoll_of_bytes {k : ReadKind} (hk : k = .readBytes ∨ k = .readDeviceData) : k ≠ .busyPoll := by
  rcases hk with rfl | rfl <;> nofun

/-- Settles O21: the step is one iteration, which ends a bare poll, and otherwise takes a byte and goes on or returns. -/
theorem aReadInProgressTakesItsNextByte : Obligations.AReadInProgressTakesItsNextByte := by
  intro s j hg hfault hjob hc hclear
  rw [step_job hfault hjob]
  refine ⟨fun hkind hacks => ?_, fun hkind hacks hmore => ?_, fun hkind hacks hlast => ?_,
    fun hkind hout hacks hlast => ?_⟩
  · rw [jobStep_poll_returns hg hc hkind hacks hclear]
  · exact congrArg _ (jobStep_goes_on hg hc hkind hacks hclear hmore)
  · rw [jobStep_returns hg hc (ne_busyPoll_of_bytes hkind) hacks hclear hlast, jobValue_bytes hkind]
  · rw [jobStep_returns hg hc (by simp [hkind]) hacks hclear hlast, hkind, hout]
    rfl

/-! ### The read operations of the ports (R145, R147, R152, R200, R201) -/

/-- R171: in `READY` a host operation runs. -/
theorem whenReady_ready {s : State} (hs : s.fsm = .ready) (k : Outcome) : whenReady s k = k := by
  rw [whenReady, hs]

section Ports

variable {s : State} (hg : s.cfg.adapter = .genericPcf8574t)
include hg

theorem exec_busyPoll (c : Byte) : exec (.busyPoll c) s = .next (jobStep ⟨.busyPoll, false, c, 0, []⟩ s) :=
  whenReadable_reads hg _

theorem exec_readBytes (rs : Bool) (n : Nat) (c : Byte) :
    exec (.readBytes rs n c) s = startRead .readBytes rs n c s := whenReadable_reads hg _

theorem exec_readDeviceData (hs : s.fsm = .ready) (n : Nat) :
    exec (.readDeviceData n) s = startRead .readDeviceData true n (controllerByte s.active) s :=
  (whenReady_ready hs _).trans (if_pos (by rw [hg]; rfl))

theorem exec_readAddressCounter (hs : s.fsm = .ready) :
    exec .readAddressCounter s = startRead .readAddressCounter false 1 (controllerByte s.active) s :=
  (whenReady_ready hs _).trans (if_pos (by rw [hg]; rfl))

end Ports

/-- R152: a read of at least one byte starts with its first iteration. -/
theorem startRead_succ (k : ReadKind) (rs : Bool) (n : Nat) (c : Byte) (s : State) :
    startRead k rs (n + 1) c s = .next (jobStep ⟨k, rs, c, n + 1, []⟩ s) := if_neg n.succ_ne_zero

/-- Settles O17: RS, RW and DATA are staged, and the enable line's check fails before the first write. -/
theorem badControllerIdStagesSignalsAndSendsNothing : Obligations.BadControllerIdStagesSignalsAndSendsNothing := by
  intro s rs nib b c n hc
  rw [← highNibble_eq]
  refine ⟨complete_error (writeNibble_bad hc rs nib), complete_error (writeByte_bad hc rs b), fun hg => ⟨?_, ?_, ?_⟩⟩
  · exact (whenReadable_reads hg _).trans (complete_error (readByte_bad hc hg rs))
  · rw [exec_busyPoll hg, jobStep_bad hg hc]
  · rw [exec_readBytes hg, startRead_succ, jobStep_bad hg hc]

/-- Settles O18: `read_byte` runs to its end in one step. -/
theorem readByteSendsSixWritesAndTwoReads : Obligations.ReadByteSendsSixWritesAndTwoReads := fun _ rs hg hacks =>
  (whenReadable_reads hg _).trans (complete_returned (readByte_eq_readSent hg hacks rs))

/-- Settles O19: the request is the first iteration of a bare poll. -/
theorem busyPollIterationFollowsTheFlag : Obligations.BusyPollIterationFollowsTheFlag := by
  intro s hg hacks
  rw [exec_busyPoll hg]
  exact ⟨fun hclear => congrArg _ (jobStep_poll_returns hg rfl rfl hacks hclear),
    fun hbusy => congrArg _ (jobStep_busy_flag hg rfl hacks hbusy)⟩

/-- A read of one byte from controller 0 returns after one iteration whose poll finds the flag clear. -/
theorem startRead_one {s : State} (hg : s.cfg.adapter = .genericPcf8574t) (h : Acks s 15) (hclear : busyIn s 2 = false)
    (k : ReadKind) (hkind : k ≠ .busyPoll) (rs : Bool) : startRead k rs 1 0 s =
      .next (returned (jobValue k [byteRead s 9]) { pollReadSent rs s with job := none }) := by
  rw [startRead_succ, jobStep_returns hg rfl hkind h hclear (le_refl 1)]
  rfl

/-- Settles O22: no byte is a query, and one byte is one iteration. -/
theorem readingABytePollsThenReads : Obligations.ReadingABytePollsThenReads := by
  intro s rs c hg
  refine ⟨?_, fun hs => ?_, fun hacks hclear => ⟨?_, fun hs hactive => ⟨?_, ?_⟩⟩⟩
  · rw [exec_readBytes hg]
    rfl
  · rw [exec_readDeviceData hg hs]
    rfl
  · rw [exec_readBytes hg, startRead_one hg hacks hclear .readBytes nofun]
    rfl
  · rw [exec_readDeviceData hg hs, hactive]
    exact startRead_one hg hacks hclear .readDeviceData nofun true
  · rw [exec_readAddressCounter hg hs, hactive]
    exact startRead_one hg hacks hclear .readAddressCounter nofun false

/-! ### Runs of a read in progress (R151, R152, R154) -/

/-- From s to t the block issued n transactions, recorded n events and took no request. -/
structure Exchanged (s t : State) (n : Nat) : Prop where
  requests : t.requests = s.requests
  txn : t.txn = s.txn + n
  trace : t.trace.length = s.trace.length + n

theorem Exchanged.trans {s t u : State} {m n : Nat} (h₁ : Exchanged s t m) (h₂ : Exchanged t u n) :
    Exchanged s u (m + n) where
  requests := h₂.requests.trans h₁.requests
  txn := by rw [h₂.txn, h₁.txn, Nat.add_assoc]
  trace := by rw [h₂.trace, h₁.trace, Nat.add_assoc]

theorem Exchanged.returned {s t : State} {n : Nat} (h : Exchanged s t n) (v : Value) : Exchanged s (returned v t) n :=
  ⟨h.requests, h.txn, h.trace⟩

theorem exchanged_pollSent (s : State) (j : Option ReadJob) : Exchanged s { pollSent s with job := j } 7 :=
  ⟨rfl, rfl, List.length_append⟩

theorem exchanged_pollReadSent (rs : Bool) (s : State) (j : Option ReadJob) :
    Exchanged s { pollReadSent rs s with job := j } 15 :=
  have hread : Exchanged (pollSent s) { pollReadSent rs s with job := j } 8 := ⟨rfl, rfl, List.length_append⟩
  (exchanged_pollSent s s.job).trans hread

/-- R151, by induction on the number of steps: an iteration that sees the flag set leaves the operation in progress,
seven answers further on. -/
theorem run_busy_flag (n : Nat) {j : ReadJob} (hc : j.c = 0) {s : State} (hg : s.cfg.adapter = .genericPcf8574t)
    (hfault : s.fault = none) (hjob : s.job = some j) (hacks : Acks s (7 * n))
    (hbusy : ∀ k, k < n → busyIn s (7 * k + 2) = true) :
    ∃ t : State, Sys2Proof.core.run n s = .next t ∧ t.job = some j ∧ t.results = s.results ∧
      Exchanged s t (7 * n) := by
  induction n generalizing s with
  | zero => exact ⟨s, rfl, hjob, rfl, rfl, rfl, rfl⟩
  | succ n ih =>
    have hstep : step s = .next { pollSent s with job := some j } := by
      rw [step_job hfault hjob, jobStep_busy_flag hg hc (hacks.mono (by omega)) (hbusy 0 n.succ_pos)]
    have hbusy' (k : Nat) (hk : k < n) : busyIn (pollSent s) (7 * k + 2) = true := by
      rw [busyIn_pollSent, show 7 + (7 * k + 2) = 7 * (k + 1) + 2 by omega]
      exact hbusy (k + 1) (by omega)
    obtain ⟨t, hrun, hjob', hresults, hexchanged⟩ :=
      ih (s := { pollSent s with job := some j }) hg hfault rfl (acks_pollSent (hacks.mono (by omega))) hbusy'
    refine ⟨t, (core_run_succ hstep n).trans hrun, hjob', hresults, ?_⟩
    rw [Nat.mul_succ, Nat.add_comm]
    exact (exchanged_pollSent s (some j)).trans hexchanged

/-- Settles O20: n iterations that all see the flag set. -/
theorem stuckBusyFlagKeepsPolling : Obligations.StuckBusyFlagKeepsPolling := by
  intro n s j hg hfault hjob hc hacks hbusy
  obtain ⟨t, hrun, hjob', hresults, hexchanged⟩ := run_busy_flag n hc hg hfault hjob hacks hbusy
  exact ⟨t, hrun, hjob', hresults, hexchanged.requests, hexchanged.txn, hexchanged.trace⟩

/-- The bytes of n reads in a row, each after its poll, fifteen answers apart (R152). -/
def bytesRead (s : State) (n : Nat) : List Byte := (List.range n).map fun k => byteRead s (15 * k + 9)

theorem bytesRead_succ (rs : Bool) (s : State) (n : Nat) :
    bytesRead s (n + 1) = byteRead s 9 :: bytesRead (pollReadSent rs s) n := by
  have hbyte (k : Nat) : byteRead (pollReadSent rs s) (15 * k + 9) = byteRead s (15 * (k + 1) + 9) := by
    rw [byteRead_pollReadSent, show 15 + (15 * k + 9) = 15 * (k + 1) + 9 by omega]
  simp [bytesRead, List.range_succ_eq_map, hbyte]

/-- R152, by induction on the iterations after the first: each takes its byte, and the last one returns them all. -/
theorem run_clear_flag (n : Nat) {j : ReadJob} (hc : j.c = 0) (hkind : j.kind = .readBytes ∨ j.kind = .readDeviceData)
    (hremaining : j.remaining = n + 1) {s : State} (hg : s.cfg.adapter = .genericPcf8574t) (hfault : s.fault = none)
    (hacks : Acks s (15 * (n + 1))) (hclear : ∀ k, k < n + 1 → busyIn s (15 * k + 2) = false) :
    ∃ u : State, Sys2Proof.core.run n (jobStep j s) = .next u ∧ u.job = none ∧
      u.results = s.results ++ [.value (.bytes (j.out ++ bytesRead s (n + 1)))] ∧ Exchanged s u (15 * (n + 1)) := by
  have hpoll := ne_busyPoll_of_bytes hkind
  induction n generalizing s j with
  | zero =>
    refine ⟨_, rfl, ?_⟩
    rw [jobStep_returns hg hc hpoll hacks (hclear 0 Nat.one_pos) hremaining.le, jobValue_bytes hkind]
    exact ⟨rfl, rfl, (exchanged_pollReadSent j.rs s none).returned _⟩
  | succ n ih =>
    have hfirst := jobStep_goes_on hg hc hpoll (hacks.mono (by omega)) (hclear 0 (by omega)) (by omega)
    have hnext := step_job (s := byteTaken j s) hfault rfl
    have hclear' (k : Nat) (hk : k < n + 1) : busyIn (pollReadSent j.rs s) (15 * k + 2) = false := by
      rw [busyIn_pollReadSent, show 15 + (15 * k + 2) = 15 * (k + 1) + 2 by omega]
      exact hclear (k + 1) (by omega)
    obtain ⟨u, hrun, hjob, hresults, hexchanged⟩ := ih (j := withByte j (byteRead s 9)) (s := byteTaken j s)
      hc hkind (by simp [withByte, hremaining]) hg hfault (acks_pollReadSent j.rs (hacks.mono (by omega))) hclear' hpoll
    refine ⟨u, ?_, hjob, ?_, ?_⟩
    · rw [hfirst]
      exact (core_run_succ hnext n).trans hrun
    · rw [bytesRead_succ j.rs s (n + 1), List.append_cons j.out]
      exact hresults
    · rw [Nat.mul_succ, Nat.add_comm]
      exact (exchanged_pollReadSent j.rs s _).trans hexchanged

/-- Settles O23: the request is the first of n + 1 iterations. -/
theorem readBytesReturnsTheBytesInOrder : Obligations.ReadBytesReturnsTheBytesInOrder := by
  intro n s rs i hg hfault hi hacks hclear
  have hstart : ∃ k, (k = .readBytes ∨ k = .readDeviceData) ∧
      exec i s = .next (jobStep ⟨k, rs, 0, n + 1, []⟩ s) := by
    rcases hi with rfl | ⟨rfl, rfl, hs, hactive⟩
    · exact ⟨.readBytes, .inl rfl, (exec_readBytes hg rs (n + 1) 0).trans (startRead_succ _ _ _ _ _)⟩
    · refine ⟨.readDeviceData, .inr rfl, ?_⟩
      rw [exec_readDeviceData hg hs, hactive]
      exact startRead_succ _ _ _ _ _
  obtain ⟨k, hkind, hexec⟩ := hstart
  obtain ⟨u, hrun, hjob, hresults, hexchanged⟩ :=
    run_clear_flag n (j := ⟨k, rs, 0, n + 1, []⟩) rfl hkind rfl hg hfault hacks hclear
  exact ⟨_, u, hexec, hrun, hjob, hexchanged.requests, hresults, hexchanged.txn, hexchanged.trace⟩

end Sys2Proof.Machine
end

section
/-! PROOFS of the host port statements (spec 42_controller.md): what UNINIT refuses (R171), the sequences on a bus that
acknowledges (R172 to R202), and what holds whatever the bus answers (R173, R180, R183, R188 to R197, R234). -/

namespace Sys2Proof.Machine

open Sys2Proof.Claims

/-! ### The gate (R171, R242) -/

/-- R171: in `UNINIT` a host operation is refused. -/
theorem whenReady_uninit {s : State} (hs : s.fsm = .uninit) (k : Outcome) :
    whenReady s k = .refused .hostOperationBeforeInit := by
  rw [whenReady, hs]

theorem execCreateChar_fit {loc : Byte} (hloc : loc.ult 8 = true) (g : Glyph) (s : State) :
    execCreateChar loc g s = whenReady s (complete okValue (fanOut (defineGlyph loc g)) s) := by
  rw [execCreateChar, if_pos hloc]

/-- Settles O25: every gated operation goes through `whenReady`, `create_char` after its check of LOC. -/
theorem hostOperationsBeforeInitAreRefused : Obligations.HostOperationsBeforeInitAreRefused := by
  intro i s hgated hwf hs
  cases i
  case createChar loc g => exact (execCreateChar_fit hwf g s).trans (whenReady_uninit hs _)
  case clear | home | setCursor | showCursor | blinkCursor | showDisplay | scrollLeft | scrollRight | leftToRight |
      rightToLeft | autoscroll | print | backlight | readDeviceData | readAddressCounter =>
    exact whenReady_uninit hs _
  all_goals cases hgated

/-! ### Outcomes that go on (R242) -/

theorem safe_complete {α : Type} (f : α → Value) (op : Op α) (s : State) : Safe (complete f op s) := ⟨_, rfl⟩

theorem safe_startRead (k : ReadKind) (rs : Bool) (n : Nat) (c : Byte) (s : State) : Safe (startRead k rs n c s) := by
  unfold startRead
  split
  · exact safe_complete _ _ s
  · exact ⟨_, rfl⟩

theorem safe_whenReady {s : State} (hs : s.fsm = .ready) {k : Outcome} (hk : Safe k) : Safe (whenReady s k) := by
  rwa [whenReady_ready hs]

/-- R200, R201, R235: a host read starts, or ends with its error. -/
theorem safe_hostRead (k : ReadKind) (rs : Bool) (n : Nat) (c : Byte) (s : State) :
    Safe (if supportsReadsOf s.cfg.adapter then startRead k rs n c s
      else complete okValue (raise .readNotSupported) s) := by
  split
  · exact safe_startRead k rs n c s
  · exact safe_complete _ _ s

/-- R145, R240: an engine read runs, or the block faults, which is a next state too. -/
theorem safe_whenReadable {s : State} {k : Outcome} (hk : Safe k) : Safe (whenReadable s k) := by
  unfold whenReadable
  split
  · exact hk
  · exact ⟨_, rfl⟩

theorem safe_whenAdapter {a : Adapter} {s : State} (ha : s.cfg.adapter = a) {k : Outcome} (hk : Safe k) :
    Safe (whenAdapter a s k) := by
  rwa [whenAdapter_eq ha]

/-- Settles O55: past its gate, an instruction runs to an end, starts a read or faults. -/
theorem everyOtherInstructionHasAnEffect : Obligations.EveryOtherInstructionHasAnEffect := by
  intro i s hwf hready hframe
  show Safe (exec i s)
  cases i
  case createChar loc g =>
    show Safe (execCreateChar loc g s)
    rw [execCreateChar_fit hwf]
    exact safe_whenReady (hready rfl) (safe_complete _ _ s)
  case clear | home | setCursor | showCursor | blinkCursor | showDisplay | scrollLeft | scrollRight | leftToRight |
      rightToLeft | autoscroll | print | backlight =>
    exact safe_whenReady (hready rfl) (safe_complete _ _ s)
  case readDeviceData | readAddressCounter => exact safe_whenReady (hready rfl) (safe_hostRead _ _ _ _ s)
  case readByte | statusRead | dataRead => exact safe_whenReadable (safe_complete _ _ s)
  case busyPoll => exact safe_whenReadable ⟨_, rfl⟩
  case readBytes => exact safe_whenReadable (safe_startRead _ _ _ _ s)
  case frameGeneric | readNibbleGeneric | frameAdafruit | powerupAdafruit | frameDual =>
    exact safe_whenAdapter (hframe _ rfl) (safe_complete _ _ s)
  all_goals exact safe_complete _ _ s

/-! ### Sequences on a bus that acknowledges, in the rules' own words (R141 to R144, R185, R189) -/

/-- What a successful operation of a gated instruction leaves (R36, R171). -/
theorem whenReady_complete_ok {op : Op Unit} {s t : State} (hs : s.fsm = .ready) (h : op s = (.ok (), t)) :
    whenReady s (complete okValue op s) = .next (returned .ok t) :=
  (whenReady_ready hs _).trans (complete_ok h)

theorem uses_changeMode (c : Byte) (f : ModeBytes → ModeBytes) : Uses (changeMode c f) 0 := by
  intro s
  unfold changeMode
  split_ifs <;> exact ⟨rfl, rfl, rfl⟩

section Acked

variable {a : Adapter} {c : Byte} (hc : c.toNat < controllerCountOf a)
include hc

theorem ackedBy_nibbleSent (rs : Bool) (nib : Nibble) : AckedBy a (writeNibble rs nib c) (nibbleSent rs nib c) 2 :=
  .writeNibble hc rs nib

theorem ackedBy_commandSent (b : Byte) (t : Nat) : AckedBy a (command c b t) (commandSent b t c) 4 :=
  ⟨fun _ => ⟨rfl, rfl, rfl⟩, fun _ hs hacks => command_eq_commandSent (by rwa [count, hs]) hacks b t⟩

theorem ackedBy_dataSent (b : Byte) : AckedBy a (dataByte c b) (fun s => dataSent c s b) 4 :=
  ⟨fun _ => ⟨rfl, rfl, rfl⟩, fun _ hs hacks => dataByte_eq_dataSent (by rwa [count, hs]) hacks b⟩

/-- R198, R199: data bytes one after another, by induction on the bytes. -/
theorem ackedBy_dataBytes (text : List Byte) :
    AckedBy a (seqOps (text.map (dataByte c))) (text.foldl (dataSent c)) (4 * text.length) := by
  induction text with
  | nil => exact .nil
  | cons b text ih =>
    have hcons := (ackedBy_dataSent hc b).cons ih
    rwa [List.length_cons, Nat.mul_succ, Nat.add_comm]

theorem ackedBy_changeMode (f : ModeBytes → ModeBytes) : AckedBy a (update (setMode c f)) (changeMode c f) 0 :=
  (AckedBy.update (uses_setMode c f)).congr (uses_changeMode c f)
    (fun _ hs => setMode_eq_changeMode (by rwa [count, hs]) f) rfl

/-- R189: the mode byte, then its command. -/
theorem ackedBy_modeSent (f : ModeBytes → ModeBytes) (b : Byte) :
    AckedBy a (seqOps [update (setMode c f), command c b tCmd]) (fun s => commandSent b 39 c (changeMode c f s)) 4 :=
  (ackedBy_changeMode hc f).cons ((ackedBy_commandSent hc b tCmd).cons .nil)

/-- R172 steps 3a to 3f: the composition of the steps' updates is the rule's. -/
theorem ackedBy_controllerInitialized : AckedBy a (initController c) (controllerInitialized c) 28 :=
  have nibble3 := ackedBy_nibbleSent hc false handshakeNibble
  (nibble3.cons <| (AckedBy.delay 5000).cons <| nibble3.cons <| (AckedBy.delay 5000).cons <|
    nibble3.cons <| (AckedBy.delay 150).cons <| (ackedBy_nibbleSent hc false commitNibble).cons <|
    (AckedBy.delay 39).cons <| (ackedBy_modeSent hc _ _).cons <| (ackedBy_modeSent hc _ _).cons <|
    (ackedBy_modeSent hc _ _).cons <| (ackedBy_commandSent hc _ _).cons <| (ackedBy_commandSent hc _ _).cons .nil :)

/-- R198: the address, then the eight rows. -/
theorem ackedBy_glyphSent (loc : Byte) (g : Glyph) : AckedBy a (defineGlyph loc g c) (glyphSent loc g c) 36 := by
  have hrows : AckedBy a (seqOps (g.rows.map (dataByte c))) (g.rows.foldl (dataSent c)) 32 :=
    ackedBy_dataBytes hc g.rows
  have hglyph := (ackedBy_commandSent hc (cgramCommand loc) tCmd).cons hrows
  unfold defineGlyph glyphSent
  exact hglyph

end Acked

/-- R185 on a bus that acknowledges. -/
theorem fanOut_eq_eachController {body : Byte → Op Unit} {f : Byte → State → State} {n : Nat} {s : State}
    (h : ∀ c : Byte, c.toNat < count s → AckedBy s.cfg.adapter (body c) (f c) n) (hacks : Acks s (n * count s)) :
    fanOut body s = (.ok (), eachController f s) := by
  rw [(AckedBy.fanOut h).2 s rfl hacks, eachController]
  cases s.cfg.adapter <;> rfl

theorem fanOut_command_acked {s : State} (hacks : Acks s (4 * count s)) (b : Byte) (t : Nat) :
    fanOut (fun c => command c b t) s = (.ok (), eachController (commandSent b t) s) :=
  fanOut_eq_eachController (fun _ hc => ackedBy_commandSent hc b t) hacks

/-- Settles O31: a fan-out of one command. -/
theorem clearReachesEveryController : Obligations.ClearReachesEveryController := fun _ hs hacks =>
  whenReady_complete_ok hs (fanOut_command_acked hacks clearCommand tClearHome)

/-- Settles O37: two fan-outs of one command each. -/
theorem scrollsSendTheShiftCommand : Obligations.ScrollsSendTheShiftCommand := fun _ hs hacks =>
  ⟨whenReady_complete_ok hs (fanOut_command_acked hacks (shiftCommand false) tCmd),
    whenReady_complete_ok hs (fanOut_command_acked hacks (shiftCommand true) tCmd)⟩

theorem ult_eight_iff {loc : Byte} : loc.ult 8 = true ↔ loc.toNat < 8 := by
  rw [BitVec.ult, decide_eq_true_iff]
  rfl

/-- Settles O40: a glyph's command and its eight data bytes for every controller; a LOC of 8 or more fails the check. -/
theorem createCharSendsTheGlyphToEveryController : Obligations.CreateCharSendsTheGlyphToEveryController := by
  intro s loc g
  refine ⟨fun hs hloc hacks => ?_, fun hloc => ?_⟩
  · refine (execCreateChar_fit (ult_eight_iff.mpr hloc) g s).trans (whenReady_complete_ok hs ?_)
    exact fanOut_eq_eachController (fun _ hc => ackedBy_glyphSent hc loc g) hacks
  · show execCreateChar loc g s = _
    rw [execCreateChar, if_neg (ult_eight_iff.not.mpr (Nat.not_lt.mpr hloc))]

/-- Settles O41: one data byte after another, to the controller that was active at the start. -/
theorem printSendsEachByteToTheActiveController : Obligations.PrintSendsEachByteToTheActiveController := by
  intro s text hs hactive hacks
  have hc : (controllerByte s.active).toNat < controllerCountOf s.cfg.adapter := by
    rwa [(controllerByte_eq_iff _ _).mp rfl]
  exact whenReady_complete_ok hs ((ackedBy_dataBytes hc text).2 s rfl hacks)

/-- Settles O42: BL is staged, and then one frame is written, whatever the bus answers. -/
theorem backlightSendsOneFrame : Obligations.BacklightSendsOneFrame := by
  intro s on hs
  refine ⟨fun b hok => ?_, fun e herr => ?_⟩
  · have hwrite := memWrite_eq_sent (s := { s with sig := { s.sig with bl := on } }) hok
    exact whenReady_complete_ok hs ((seqOps_cons_setBacklight on _ s).trans (seqOps_cons_ok (hwrite _)))
  · have hwrite := memWrite_eq_sent_err (s := { s with sig := { s.sig with bl := on } }) herr
    have hfails : seqOps [setBacklight on, writeStateToBus] s = (.error (.busError e), backlightSent on s) :=
      (seqOps_cons_setBacklight on _ s).trans (seqOps_cons_error (hwrite _))
    exact (whenReady_ready hs _).trans (complete_error hfails)

/-! ### The mode operations on a bus that acknowledges (R189 to R197) -/

section Acked

variable {a : Adapter} {c : Byte} (hc : c.toNat < controllerCountOf a) (f : Byte → Byte)
include hc

theorem ackedBy_changeControl :
    AckedBy a (changeControl f c) (fun s => controlSent (f (modeByte (modeAt c s).control s)) c s) 4 :=
  ⟨fun s => (ackedBy_modeSent hc _ _).1 s, fun s => (ackedBy_modeSent hc _ _).2 s⟩

theorem ackedBy_changeEntry :
    AckedBy a (changeEntry f c) (fun s => entrySent (f (modeByte (modeAt c s).entry s)) c s) 4 :=
  ⟨fun s => (ackedBy_modeSent hc _ _).1 s, fun s => (ackedBy_modeSent hc _ _).2 s⟩

omit hc in
/-- R191, R192: one change of the control byte, by f or by the removal of the cursor. -/
theorem changeCursor_eq (s : State) :
    changeCursor f c s = changeControl (if c = controllerByte s.active then f else withoutCursor) c s := by
  unfold changeCursor
  split_ifs <;> rfl

theorem ackedBy_changeCursor : AckedBy a (changeCursor f c) (fun s =>
    controlSent ((if c = controllerByte s.active then f else withoutCursor) (modeByte (modeAt c s).control s)) c s) 4 :=
  ⟨fun s => (ackedBy_changeControl hc _).1 s, fun s hs hacks =>
    (changeCursor_eq f s).trans ((ackedBy_changeControl hc _).2 s hs hacks)⟩

end Acked

/-- R29: a byte that holds a value reads as that value. -/
theorem modeByte_of_held {b : Option Byte} (h : b.isSome = true) (s : State) : modeByte b s = b.getD 0 := by
  obtain ⟨v, rfl⟩ := Option.isSome_iff_exists.mp h
  rfl

theorem modeByte_control {c : Byte} {s : State} (h : ModeHeld (modeOf c s)) :
    modeByte (modeAt c s).control s = control c s := by
  obtain ⟨-, hcontrol, -⟩ := h
  exact modeByte_of_held hcontrol s

theorem modeByte_entry {c : Byte} {s : State} (h : ModeHeld (modeOf c s)) :
    modeByte (modeAt c s).entry s = entry c s := by
  obtain ⟨-, -, hentry⟩ := h
  exact modeByte_of_held hentry s

/-- R185, R189: a fan-out whose bodies read mode bytes that hold a value, where the first body leaves controller 1's. -/
theorem fanOut_of_held {body : Byte → Op Unit} {f g : Byte → State → State} {s : State} (hheld : ModesHeld s)
    (hacks : Acks s (4 * count s)) (hbody : ∀ c : Byte, c.toNat < count s → AckedBy s.cfg.adapter (body c) (f c) 4)
    (hfg : ∀ c u, ModeHeld (modeOf c u) → f c u = g c u) (hmode1 : (g 0 s).mode1 = s.mode1) :
    fanOut body s = (.ok (), eachController g s) := by
  obtain ⟨hheld0, hheld1⟩ := hheld
  have hfirst : f 0 s = g 0 s := hfg 0 s hheld0
  rw [fanOut_eq_eachController hbody hacks]
  unfold eachController
  cases ha : s.cfg.adapter with
  | genericPcf8574t | adafruitMcp23008 => simp only [hfirst]
  | dualPcf8574t =>
    have hsecond : ModeHeld (modeOf 1 (g 0 s)) := by
      show ModeHeld (g 0 s).mode1
      rw [hmode1]
      exact hheld1 (by rw [ha]; rfl)
    simp only [hfirst, hfg 1 _ hsecond]

/-- Settles O35: the control byte's D flag, on every controller. -/
theorem showDisplaySetsTheDisplayFlagEverywhere : Obligations.ShowDisplaySetsTheDisplayFlagEverywhere := by
  intro s on hs hheld hacks
  refine whenReady_complete_ok hs (fanOut_of_held hheld hacks (fun _ hc => ackedBy_changeControl hc _) ?_ rfl)
  intro c u hu
  rw [modeByte_control hu, withDisplay_eq]

/-- R191, R192: the byte a cursor operation gives controller c. -/
theorem cursorByte_eq {f v : Byte → Byte} (hfv : ∀ x, f x = v x) (c : Byte) (s : State) :
    (if c = controllerByte s.active then f else withoutCursor) (control c s) = cursorByte v c s := by
  unfold cursorByte
  by_cases hactive : c = controllerByte s.active
  · rw [if_pos hactive, if_pos ((controllerByte_eq_iff _ _).mp hactive), hfv]
  · rw [if_neg hactive, if_neg ((controllerByte_eq_iff _ _).not.mp hactive), withoutCursor_eq]

theorem fanOut_changeCursor_acked {f v : Byte → Byte} (hfv : ∀ x, f x = v x) {s : State} (hheld : ModesHeld s)
    (hacks : Acks s (4 * count s)) : fanOut (changeCursor f) s =
      (.ok (), eachController (fun c u => controlSent (cursorByte v c u) c u) s) := by
  refine fanOut_of_held hheld hacks (fun _ hc => ackedBy_changeCursor hc f) ?_ rfl
  intro c u hu
  rw [modeByte_control hu, cursorByte_eq hfv]

/-- Settles O36: the C and the B flag are one fan-out each. -/
theorem cursorFlagsFollowTheActiveController : Obligations.CursorFlagsFollowTheActiveController :=
  fun _ on hs hheld hacks =>
  ⟨whenReady_complete_ok hs (fanOut_changeCursor_acked (withCursor_eq on) hheld hacks),
    whenReady_complete_ok hs (fanOut_changeCursor_acked (withBlink_eq on) hheld hacks)⟩

theorem fanOut_changeEntry_acked {f v : Byte → Byte} (hfv : ∀ x, f x = v x) {s : State} (hheld : ModesHeld s)
    (hacks : Acks s (4 * count s)) : fanOut (changeEntry f) s =
      (.ok (), eachController (fun c u => entrySent (v (entry c u)) c u) s) := by
  refine fanOut_of_held hheld hacks (fun _ hc => ackedBy_changeEntry hc f) ?_ rfl
  intro c u hu
  rw [modeByte_entry hu, hfv]

/-- Settles O38: the three operations are one fan-out each. -/
theorem entryModeOperationsUpdateEveryController : Obligations.EntryModeOperationsUpdateEveryController :=
  fun _ on hs hheld hacks =>
  ⟨whenReady_complete_ok hs (fanOut_changeEntry_acked (fun _ => rfl) hheld hacks),
    whenReady_complete_ok hs (fanOut_changeEntry_acked withRightToLeft_eq hheld hacks),
    whenReady_complete_ok hs (fanOut_changeEntry_acked (withAutoscroll_eq on) hheld hacks)⟩

/-! ### `init` on a bus that acknowledges (R172 to R180) -/

theorem requireCompatible_ok {s : State} (h : isCompatibleWith s.cfg.adapter s.cfg.geometry = true) :
    requireCompatible s = (.ok (), s) := if_pos h

theorem requireCompatible_fails {s : State} (h : isCompatibleWith s.cfg.adapter s.cfg.geometry = false) :
    requireCompatible s = (.error .unsupportedDisplayType, s) := by
  rw [requireCompatible, h]
  rfl

@[simp] theorem poweredUp_cfg (s : State) : (poweredUp s).cfg = s.cfg := by
  unfold poweredUp
  split_ifs <;> rfl

/-- R111: one acknowledged write on the MCP23008, none elsewhere. -/
theorem hardwareInit_acked {s : State} {n : Nat}
    (h : Acks s ((if s.cfg.adapter = .adafruitMcp23008 then 1 else 0) + n)) :
    hardwareInit s = (.ok (), poweredUp s) ∧ Acks (poweredUp s) n := by
  unfold poweredUp
  by_cases ha : s.cfg.adapter = .adafruitMcp23008
  · rw [if_pos ha] at h ⊢
    obtain ⟨b, hb⟩ := (h.mono (Nat.le_add_right 1 n)).next
    rw [nextAnswer_eq_answerAt] at hb
    exact ⟨(hardwareInit_mcp ha).trans (memWrite_eq_sent hb _), acks_after h _ _⟩
  · rw [if_neg ha] at h ⊢
    exact ⟨hardwareInit_no_op ha, by rwa [Nat.zero_add] at h⟩

/-- The answers left after a fan-out. -/
theorem acks_eachController {f : Byte → State → State} {m n : Nat} {s : State}
    (h : ∀ c : Byte, c.toNat < count s → Uses (f c) n) (hacks : Acks s (n * count s + m)) :
    Acks (eachController f s) m := by
  unfold eachController
  rw [count] at h hacks
  cases ha : s.cfg.adapter with
  | genericPcf8574t | adafruitMcp23008 =>
    rw [ha] at h hacks
    exact (h 0 (by decide)).acks (by simpa [controllerCountOf] using hacks)
  | dualPcf8574t =>
    rw [ha] at h hacks
    refine (h 1 (by decide)).acks ((h 0 (by decide)).acks ?_)
    rwa [← Nat.add_assoc, ← Nat.mul_two]

theorem fanOut_initController_acked {s : State} {n : Nat} (hacks : Acks s (28 * count s + n)) :
    fanOut initController s = (.ok (), eachController controllerInitialized s) ∧
      Acks (eachController controllerInitialized s) n :=
  have hinit (c : Byte) (hc : c.toNat < count s) := ackedBy_controllerInitialized hc
  ⟨fanOut_eq_eachController hinit (hacks.mono (Nat.le_add_right _ n)),
    acks_eachController (fun c hc => (hinit c hc).1) hacks⟩

theorem initSequence_acked {s : State} (hcompatible : isCompatibleWith s.cfg.adapter s.cfg.geometry = true)
    (hacks : Acks s (initTransactions s)) : initSequence s = (.ok (), initialized s) := by
  rw [initTransactions, Nat.add_assoc] at hacks
  obtain ⟨hpower, hacksFan⟩ := hardwareInit_acked (s := { s with fsm := .uninit }) hacks
  have hcount : count s = count (poweredUp { s with fsm := .uninit }) := by rw [count, count, poweredUp_cfg]
  rw [hcount] at hacksFan
  obtain ⟨hfan, hacksFrame⟩ := fanOut_initController_acked hacksFan
  have hstart := requireCompatible_ok (s := { s with fsm := .uninit }) hcompatible
  calc initSequence s
    _ = seqOps [requireCompatible, hardwareInit, fanOut initController, setBacklight true, writeStateToBus, setActive 0,
        setFsm .ready] { s with fsm := .uninit } := rfl
    _ = (.ok (), initialized s) := by
      rw [seqOps_cons_ok hstart, seqOps_cons_ok hpower, seqOps_cons_ok hfan,
        seqOps_cons_setBacklight, seqOps_write_after (n := 0) hacksFrame]
      rfl

/-- Settles O26: every step of the sequence finds its transactions acknowledged. -/
theorem initRunsTheWholeSequence : Obligations.InitRunsTheWholeSequence := fun _ hcompatible hacks =>
  complete_ok (initSequence_acked hcompatible hacks)

/-! #### The registers it leaves (R172) -/

/-- A later staging and strobe hides an earlier one of the same controller. -/
theorem strobe_strobe (a : Adapter) (rs rs' : Bool) (nib nib' : Nibble) (c : Byte) (v v' : Bool) (g : SignalState) :
    strobe a rs' nib' c v' (strobe a rs nib c v g) = strobe a rs' nib' c v' g := by
  show withEnable v' c (stagedSig a rs' nib' (strobeSig a rs nib c v g)) = _
  rw [stagedSig_strobeSig, withEnable_withEnable]
  rfl

@[simp] theorem delayed_cfg (t : Nat) (s : State) : (delayed t s).cfg = s.cfg := rfl
@[simp] theorem delayed_sig (t : Nat) (s : State) : (delayed t s).sig = s.sig := rfl
@[simp] theorem delayed_mode0 (t : Nat) (s : State) : (delayed t s).mode0 = s.mode0 := rfl
@[simp] theorem delayed_mode1 (t : Nat) (s : State) : (delayed t s).mode1 = s.mode1 := rfl

section Sent

variable (rs : Bool) (nib : Nibble) (b c : Byte) (t : Nat) (s : State)

@[simp] theorem nibbleSent_cfg : (nibbleSent rs nib c s).cfg = s.cfg := rfl
@[simp] theorem nibbleSent_sig : (nibbleSent rs nib c s).sig = strobe s.cfg.adapter rs nib c false s.sig := rfl
@[simp] theorem nibbleSent_mode0 : (nibbleSent rs nib c s).mode0 = s.mode0 := rfl
@[simp] theorem nibbleSent_mode1 : (nibbleSent rs nib c s).mode1 = s.mode1 := rfl

@[simp] theorem commandSent_cfg : (commandSent b t c s).cfg = s.cfg := rfl
@[simp] theorem commandSent_sig :
    (commandSent b t c s).sig = strobe s.cfg.adapter false (b.setWidth 4) c false s.sig := rfl
@[simp] theorem commandSent_mode0 : (commandSent b t c s).mode0 = s.mode0 := rfl
@[simp] theorem commandSent_mode1 : (commandSent b t c s).mode1 = s.mode1 := rfl

end Sent

section ChangeMode

variable (c : Byte) (f : ModeBytes → ModeBytes) (s : State)

@[simp] theorem changeMode_cfg : (changeMode c f s).cfg = s.cfg := (uses_changeMode c f s).1

@[simp] theorem changeMode_sig : (changeMode c f s).sig = s.sig := by
  unfold changeMode
  split_ifs <;> rfl

theorem changeMode_mode0 : (changeMode c f s).mode0 = if c = 0 then f s.mode0 else s.mode0 := by
  unfold changeMode
  split_ifs <;> rfl

theorem changeMode_mode1 : (changeMode c f s).mode1 = if c = 0 then s.mode1 else f s.mode1 := by
  unfold changeMode
  split_ifs <;> rfl

end ChangeMode

section ControllerInitialized

variable (c : Byte) (s : State)

theorem controllerInitialized_cfg : (controllerInitialized c s).cfg = s.cfg := by
  simp [controllerInitialized, entrySent, controlSent, functionSent]

/-- Every transfer of the sequence stages its own signals: those of the last nibble are left, the low one of 0x02. -/
theorem controllerInitialized_sig :
    (controllerInitialized c s).sig = strobe s.cfg.adapter false 0x2 c false s.sig := by
  simp [controllerInitialized, entrySent, controlSent, functionSent, strobe_strobe]

/-- R177: the mode bytes of an initialized controller. -/
def initialModes : ModeBytes := ⟨some 0x08, some 0x04, some 0x02⟩

theorem controllerInitialized_mode0 :
    (controllerInitialized c s).mode0 = if c = 0 then initialModes else s.mode0 := by
  simp only [controllerInitialized, entrySent, controlSent, functionSent, commandSent_mode0, changeMode_mode0,
    delayed_mode0, nibbleSent_mode0]
  split_ifs <;> rfl

theorem controllerInitialized_mode1 :
    (controllerInitialized c s).mode1 = if c = 0 then s.mode1 else initialModes := by
  simp only [controllerInitialized, entrySent, controlSent, functionSent, commandSent_mode1, changeMode_mode1,
    delayed_mode1, nibbleSent_mode1]
  split_ifs <;> rfl

end ControllerInitialized

section EachController

variable (s : State)

theorem eachController_controllerInitialized_sig : (eachController controllerInitialized s).sig =
    ⟨false, !hasRwOf s.cfg.adapter && s.sig.rw, false, (count s == 1) && s.sig.en1, s.sig.bl, 0x2⟩ := by
  unfold eachController count
  cases ha : s.cfg.adapter <;>
    simp [controllerInitialized_sig, controllerInitialized_cfg, ha, strobe, staged, withEn, hasRwOf, controllerCountOf]

theorem eachController_controllerInitialized_mode0 :
    (eachController controllerInitialized s).mode0 = initialModes := by
  unfold eachController
  cases s.cfg.adapter <;> simp [controllerInitialized_mode0]

theorem eachController_controllerInitialized_mode1 : (eachController controllerInitialized s).mode1 =
    if s.cfg.adapter = .dualPcf8574t then initialModes else s.mode1 := by
  unfold eachController
  cases s.cfg.adapter <;> simp [controllerInitialized_mode1]

end EachController

@[simp] theorem poweredUp_sig (s : State) : (poweredUp s).sig = s.sig := by
  unfold poweredUp
  split_ifs <;> rfl

@[simp] theorem poweredUp_mode1 (s : State) : (poweredUp s).mode1 = s.mode1 := by
  unfold poweredUp
  split_ifs <;> rfl

theorem initialized_sig (s : State) : (initialized s).sig =
    ⟨false, !hasRwOf s.cfg.adapter && s.sig.rw, false, (count s == 1) && s.sig.en1, true, 0x2⟩ := by
  have hfan := eachController_controllerInitialized_sig (poweredUp { s with fsm := .uninit })
  simp only [poweredUp_cfg, poweredUp_sig, count] at hfan
  simp only [initialized, backlightSent, sent, hfan, count]

/-- Settles O27: what the last nibble of the sequence and the three mode writes leave; the invariant gives RW and EN[1]
where the adapter has none. -/
theorem initLeavesTheSpecifiedRegisters : Obligations.InitLeavesTheSpecifiedRegisters := by
  intro s hinv hcompatible hacks
  refine ⟨_, initRunsTheWholeSequence s hcompatible hacks, rfl, rfl, ?_, ?_, ?_⟩
  · have hrw : (!hasRwOf s.cfg.adapter && s.sig.rw) = false := by
      cases hr : hasRwOf s.cfg.adapter with
      | true => rfl
      | false => simp [hinv.rw hr]
    have hen1 : ((count s == 1) && s.sig.en1) = false := by
      by_cases hone : count s = 1
      · simp [hinv.en1 hone]
      · simp [hone]
    exact (initialized_sig s).trans (by rw [hrw, hen1])
  · exact eachController_controllerInitialized_mode0 _
  · refine (eachController_controllerInitialized_mode1 _).trans ?_
    rw [poweredUp_cfg, poweredUp_mode1]
    refine ite_congr rfl (fun _ => rfl) fun hone => hinv.mode1 ?_
    rw [controllerCountOf_eq, if_neg hone]

/-! ### Relations that transfers respect, through the controller's sequences -/

section TransferKept

variable {R : State → State → Prop} (h : TransferKept R)
include h

theorem TransferKept.changeControl (hwrite : ∀ c v, Keeps R (writeControl c v)) (f : Byte → Byte) (c : Byte) :
    Keeps R (changeControl f c) := fun s =>
  h.seqOps (by simp [hwrite, h.command c _ settleDelay_tCmd]) s

theorem TransferKept.changeCursor (hwrite : ∀ c v, Keeps R (writeControl c v)) (f : Byte → Byte) (c : Byte) :
    Keeps R (changeCursor f c) := fun s => by
  rw [changeCursor_eq]
  exact h.changeControl hwrite _ c s

theorem TransferKept.changeEntry (hwrite : ∀ c v, Keeps R (writeEntry c v)) (f : Byte → Byte) (c : Byte) :
    Keeps R (changeEntry f c) := fun s =>
  h.seqOps (by simp [hwrite, h.command c _ settleDelay_tCmd]) s

theorem TransferKept.setCursor (hactive : ∀ c, Keeps R (setActive c)) (col row : Byte) :
    Keeps R (setCursor col row) := by
  intro s
  unfold Machine.setCursor
  split
  · exact h.raise _ s
  split
  · exact h.raise _ s
  · exact h.seqOps (by simp [hactive, h.command _ _ settleDelay_tCmd]) s

theorem TransferKept.initController (hwrite : ∀ c f, Keeps R (update (setMode c f))) (c : Byte) :
    Keeps R (initController c) := by
  have hsend (f : ModeBytes → ModeBytes) (b : Byte) :
      Keeps R (seqOps [update (setMode c f), Machine.command c b tCmd]) :=
    h.seqOps (by simp [hwrite, h.command c _ settleDelay_tCmd])
  have hreset1 : Keeps R (Machine.delay tReset1) := h.delay (by simp [SettleDelay])
  have hreset2 : Keeps R (Machine.delay tReset2) := h.delay (by simp [SettleDelay])
  have hreset3 : Keeps R (Machine.delay tReset3) := h.delay (by simp [SettleDelay])
  rw [initController_eq]
  refine h.seqOps ?_
  simp [initControllerSteps, h.writeNibble, hreset1, hreset2, hreset3, h.delay settleDelay_tCmd, sendFunction,
    sendControl, sendEntry, writeFunction, writeControl, writeEntry, hsend, h.command c _ settleDelay_tClearHome]

end TransferKept

/-! ### What the mode operations leave unchanged (R183, R188, R190 to R197) -/

/-- `FSM` and the mode bytes, without `ACTIVE`. -/
def modesView (s : State) : Fsm × ModeBytes × ModeBytes := (s.fsm, s.mode0, s.mode1)

/-- All controller registers but the control bytes. -/
def withoutControlView (s : State) : Fsm × BitVec 1 × (Option Byte × Option Byte) × Option Byte × Option Byte :=
  (s.fsm, s.active, (s.mode0.function, s.mode0.entry), s.mode1.function, s.mode1.entry)

/-- All controller registers but the entry bytes. -/
def withoutEntryView (s : State) : Fsm × BitVec 1 × (Option Byte × Option Byte) × Option Byte × Option Byte :=
  (s.fsm, s.active, (s.mode0.function, s.mode0.control), s.mode1.function, s.mode1.control)

theorem registerView_modesView : RegisterView modesView where
  fsm h := congrArg Prod.fst h
  frame _ _ _ _ _ _ _ _ _ := rfl

theorem registerView_withoutControlView : RegisterView withoutControlView where
  fsm h := congrArg Prod.fst h
  frame _ _ _ _ _ _ _ _ _ := rfl

theorem registerView_withoutEntryView : RegisterView withoutEntryView where
  fsm h := congrArg Prod.fst h
  frame _ _ _ _ _ _ _ _ _ := rfl

theorem keeps_withoutControlView_writeControl (c v : Byte) :
    Keeps (SameView withoutControlView) (writeControl c v) := by
  intro s
  show withoutControlView (setMode c _ s) = withoutControlView s
  unfold setMode
  split_ifs <;> rfl

theorem keeps_withoutEntryView_writeEntry (c v : Byte) : Keeps (SameView withoutEntryView) (writeEntry c v) := by
  intro s
  show withoutEntryView (setMode c _ s) = withoutEntryView s
  unfold setMode
  split_ifs <;> rfl

theorem modesView_exec {i : Instr} (hi : i = .home ∨ ∃ col row, i = .setCursor col row) (s : State) :
    NextKept (SameView modesView) s (exec i s) := by
  have h := registerView_modesView.portKept
  have hactive (c : BitVec 1) : Keeps (SameView modesView) (setActive c) := fun _ => rfl
  obtain rfl | ⟨col, row, rfl⟩ := hi
  · exact .whenReady (h.complete (h.seqOps (by simp [h.fanOut_command _ settleDelay_tClearHome, hactive]) s))
  · exact .whenReady (h.complete (h.toTransferKept.setCursor hactive col row s))

theorem withoutControlView_exec {i : Instr} (hi :
    (∃ on, i = .showCursor on ∨ i = .blinkCursor on ∨ i = .showDisplay on) ∨ ∃ c x y z, i = .displayControl c x y z)
    (s : State) : NextKept (SameView withoutControlView) s (exec i s) := by
  have h := registerView_withoutControlView.portKept
  have hwrite := keeps_withoutControlView_writeControl
  obtain ⟨on, rfl | rfl | rfl⟩ | ⟨c, x, y, z, rfl⟩ := hi
  · exact .whenReady (h.complete (h.fanOut (h.toTransferKept.changeCursor hwrite _) s))
  · exact .whenReady (h.complete (h.fanOut (h.toTransferKept.changeCursor hwrite _) s))
  · exact .whenReady (h.complete (h.fanOut (h.toTransferKept.changeControl hwrite _) s))
  · exact h.complete (h.seqOps (by simp [h.whileReady (hwrite c _), h.command c _ settleDelay_tCmd]) s)

theorem withoutEntryView_exec {i : Instr} (hi : i = .leftToRight ∨ i = .rightToLeft ∨ (∃ on, i = .autoscroll on) ∨
    ∃ c x y, i = .entryModeSet c x y) (s : State) : NextKept (SameView withoutEntryView) s (exec i s) := by
  have h := registerView_withoutEntryView.portKept
  have hwrite := keeps_withoutEntryView_writeEntry
  obtain rfl | rfl | ⟨on, rfl⟩ | ⟨c, x, y, rfl⟩ := hi
  · exact .whenReady (h.complete (h.fanOut (h.toTransferKept.changeEntry hwrite _) s))
  · exact .whenReady (h.complete (h.fanOut (h.toTransferKept.changeEntry hwrite _) s))
  · exact .whenReady (h.complete (h.fanOut (h.toTransferKept.changeEntry hwrite _) s))
  · exact h.complete (h.seqOps (by simp [h.whileReady (hwrite c _), h.command c _ settleDelay_tCmd]) s)

/-- Settles O51: each group of instructions keeps a view of the controller registers, whatever the bus answers. -/
theorem modeInstructionsKeepEverythingElse : Obligations.ModeInstructionsKeepEverythingElse := by
  refine fun i s t hexec => ⟨fun hi => ?_, fun hi => ?_, fun hi => ?_⟩
  · have hview := modesView_exec hi s t hexec
    simp only [SameView, modesView, Prod.mk.injEq] at hview
    obtain ⟨hfsm, hmode0, hmode1⟩ := hview
    exact ⟨hmode0, hmode1, hfsm⟩
  · have hview := withoutControlView_exec hi s t hexec
    simp only [SameView, withoutControlView, Prod.mk.injEq] at hview
    obtain ⟨hfsm, hactive, ⟨hfunction0, hentry0⟩, hfunction1, hentry1⟩ := hview
    exact ⟨hfunction0, hentry0, hfunction1, hentry1, hactive, hfsm⟩
  · have hview := withoutEntryView_exec hi s t hexec
    simp only [SameView, withoutEntryView, Prod.mk.injEq] at hview
    obtain ⟨hfsm, hactive, ⟨hfunction0, hcontrol0⟩, hfunction1, hcontrol1⟩ := hview
    exact ⟨hfunction0, hcontrol0, hfunction1, hcontrol1, hactive, hfsm⟩

/-! ### How `init` and `home` end, whatever the bus answers (R173, R180, R183) -/

theorem Exact.results {α : Type} {op : Op α} (h : Exact op) {s t : State} {r : Except OpError α} (hs : op s = (r, t)) :
    t.results = s.results := by
  obtain ⟨_, _, issued, -⟩ := h s
  simpa [hs] using issued.results

/-- `FSM` and `ACTIVE`. -/
def fsmActiveView (s : State) : Fsm × BitVec 1 := (s.fsm, s.active)

theorem registerView_fsmActiveView : RegisterView fsmActiveView where
  fsm h := congrArg Prod.fst h
  frame _ _ _ _ _ _ _ _ _ := rfl

theorem keeps_fsmActiveView_setMode (c : Byte) (f : ModeBytes → ModeBytes) :
    Keeps (SameView fsmActiveView) (update (setMode c f)) := by
  intro s
  show fsmActiveView (setMode c f s) = fsmActiveView s
  unfold setMode
  split_ifs <;> rfl

/-- The steps of `init` that can fail (R172). -/
def initFallible : List (Op Unit) :=
  [requireCompatible, hardwareInit, fanOut initController, setBacklight true, writeStateToBus]

theorem initSequence_eq_fallible (s : State) :
    initSequence s =
      opBind (seqOps initFallible) (fun _ => seqOps [setActive 0, setFsm .ready]) { s with fsm := .uninit } :=
  seqOps_append initFallible [setActive 0, setFsm .ready] { s with fsm := .uninit }

theorem exact_initFallible : Exact (seqOps initFallible) :=
  exact_seqOps (by
    simp [initFallible, exact_requireCompatible, exact_hardwareInit, exact_fanOut exact_initController,
      exact_setBacklight, exact_writeStateToBus])

/-- R180: neither `FSM` nor `ACTIVE` is written before every step that can fail has succeeded. -/
theorem keeps_fsmActiveView_initFallible : Keeps (SameView fsmActiveView) (seqOps initFallible) := by
  have h := registerView_fsmActiveView.portKept
  have hcompatible : Keeps (SameView fsmActiveView) requireCompatible := fun s => by
    unfold requireCompatible
    split <;> rfl
  have hbacklight : Keeps (SameView fsmActiveView) (setBacklight true) := fun _ => rfl
  have hfan := h.fanOut (h.toTransferKept.initController keeps_fsmActiveView_setMode)
  exact h.seqOps (by simp [initFallible, hcompatible, h.hardwareInit, hfan, hbacklight, h.writeStateToBus])

/-- Settles O30: the last two steps cannot fail, and the ones before them keep `FSM` and `ACTIVE`. -/
theorem failedInitLeavesUninit : Obligations.FailedInitLeavesUninit := by
  intro s
  have hkept := keeps_fsmActiveView_initFallible { s with fsm := .uninit }
  have hinit := initSequence_eq_fallible s
  rcases hrun : seqOps initFallible { s with fsm := .uninit } with ⟨e | ⟨⟩, u⟩
  · rw [opBind_error hrun] at hinit
    rw [hrun] at hkept
    have hresults : u.results = s.results := exact_initFallible.results (s := { s with fsm := .uninit }) hrun
    simp only [SameView, fsmActiveView, Prod.mk.injEq] at hkept
    obtain ⟨hfsm, hactive⟩ := hkept
    exact ⟨_, complete_error hinit, .inr ⟨e, by rw [← hresults]; rfl, hfsm, hactive⟩⟩
  · rw [opBind_ok hrun] at hinit
    have hresults : u.results = s.results := exact_initFallible.results (s := { s with fsm := .uninit }) hrun
    exact ⟨_, complete_ok hinit, .inl ⟨by rw [← hresults]; rfl, rfl, rfl⟩⟩

/-- Settles O32: on an acknowledging bus a fan-out of one command; `ACTIVE` is written only after it succeeded. -/
theorem homeReachesEveryControllerAndResetsActive : Obligations.HomeReachesEveryControllerAndResetsActive := by
  intro s hs
  refine ⟨fun hacks => ?_, ?_⟩
  · exact whenReady_complete_ok hs (seqOps_cons_ok (fanOut_command_acked hacks homeCommand tClearHome))
  · have hexec : exec .home s = complete okValue (seqOps [fanOut fun c => command c homeCommand tClearHome,
        setActive 0]) s := whenReady_ready hs _
    have hkept := registerView_fsmActiveView.portKept.fanOut_command homeCommand settleDelay_tClearHome s
    have hexact : Exact (fanOut fun c => command c homeCommand tClearHome) := exact_fanOut fun _ => exact_command _ _ _
    rw [hexec]
    rcases hrun : fanOut (fun c => command c homeCommand tClearHome) s with ⟨e | ⟨⟩, u⟩
    · rw [hrun] at hkept
      have hactive : u.active = s.active := congrArg Prod.snd hkept
      exact ⟨_, complete_error (seqOps_cons_error hrun), .inr ⟨e, by rw [← hexact.results hrun]; rfl, hactive⟩⟩
    · exact ⟨_, complete_ok (seqOps_cons_ok hrun), .inl ⟨by rw [← hexact.results hrun]; rfl, rfl⟩⟩

/-! ### A geometry the adapter is not compatible with (R173, R234) -/

theorem exec_init_incompatible {s : State} (h : isCompatibleWith s.cfg.adapter s.cfg.geometry = false) :
    exec .init s = .next (failed .unsupportedDisplayType { s with fsm := .uninit }) :=
  have hfails := requireCompatible_fails (s := { s with fsm := .uninit }) h
  complete_error ((seqOps_cons_ok (op := setFsm .uninit) rfl).trans (seqOps_cons_error hfails))

theorem step_cfg {s t : State} (hstep : step s = .next t) : t.cfg = s.cfg := by
  obtain ⟨-, ⟨-, -, rfl⟩ | ⟨j, -, rfl⟩ | ⟨p, rest, i, -, -, -, hexec⟩⟩ := step_cases hstep
  · rfl
  · obtain ⟨_, _, -, -, -, -, -, hcfg, -⟩ := jobStep_exact j s
    exact hcfg
  · exact (exec_cfg_requests hexec).1

/-- Settles O29: only a decoded `init` could change `FSM`, and it fails at its second step. -/
theorem initRejectsAnIncompatibleGeometry : Obligations.InitRejectsAnIncompatibleGeometry := by
  intro s hincompatible
  refine ⟨exec_init_incompatible hincompatible, fun t hstep hs => ⟨?_, by rwa [step_cfg hstep]⟩⟩
  by_contra hfsm
  obtain ⟨p, rest, hfault, hjob, hrequests, hdecode⟩ :=
    onlyInitChangesTheFsmOrFillsMode s t hstep (.inl (by rwa [hs]))
  rw [stepRunsTheDecodedRequest s p rest .init hfault hjob hrequests hdecode,
    exec_init_incompatible (s := { s with requests := rest }) hincompatible] at hstep
  cases hstep
  exact hfsm rfl

/-! ### `set_cursor` in range (R186 to R188) -/

/-- R188 once both checks have passed: `ACTIVE` is written, and one command is sent from the state that leaves. -/
theorem setCursor_in_range {s : State} {col row : Byte} (hrow : row.toNat < s.cfg.geometry.rows.toNat)
    (hcol : col.toNat < s.cfg.geometry.cols.toNat) : setCursor col row s =
      seqOps [command (controllerByte (rowMap s.cfg.adapter row).1)
        (ddramCommand (cellAddress s.cfg.adapter s.cfg.geometry col row)) tCmd]
        { s with active := (rowMap s.cfg.adapter row).1 } := by
  have hrow' : ¬ s.cfg.geometry.rows.ule row = true := by simpa [BitVec.ule] using hrow
  have hcol' : ¬ s.cfg.geometry.cols.ule col = true := by simpa [BitVec.ule] using hcol
  rw [setCursor, if_neg hrow', if_neg hcol']
  rfl

/-- R187: rows 2 and 3 of the dual adapter belong to the second controller. -/
theorem rowMap_eq (a : Adapter) (row : Byte) : rowMap a row =
    if decide (a = .dualPcf8574t ∧ 2 ≤ row.toNat) then (1, row - 2) else (0, row) := by
  cases a with
  | genericPcf8574t | adafruitMcp23008 => simp [rowMap, controllerCountOf]
  | dualPcf8574t =>
    have hult : row.ult 2 = !decide (2 ≤ row.toNat) := by
      rw [BitVec.ult, ← decide_not, decide_eq_decide, Nat.not_le]
      rfl
    show (if row.ult 2 then ((0 : BitVec 1), row) else (1, row - 2)) = _
    rw [hult]
    by_cases hrow : 2 ≤ row.toNat <;> simp [hrow]

/-- R9: the offset by the number of the local row. -/
def offsetOfRow (g : Geometry) (lr : Nat) : Byte :=
  if lr = 0 then g.off0 else if lr = 1 then g.off1 else if lr = 2 then g.off2 else g.off3

theorem rowOffset_eq (g : Geometry) (lr : Byte) : rowOffset g lr = offsetOfRow g lr.toNat := by
  have hnum (k : Byte) : lr = k ↔ lr.toNat = k.toNat := BitVec.toNat_inj.symm
  simp only [rowOffset, offsetOfRow, hnum]
  rfl

/-- R188: the number of the row within its controller. -/
theorem rowMap_snd_toNat (a : Adapter) (row : Byte) : (rowMap a row).2.toNat =
    if decide (a = .dualPcf8574t ∧ 2 ≤ row.toNat) then row.toNat - 2 else row.toNat := by
  rw [rowMap_eq]
  by_cases hsecond : a = .dualPcf8574t ∧ 2 ≤ row.toNat
  · simp only [hsecond]
    exact BitVec.toNat_sub_of_le (BitVec.le_def.mpr hsecond.2)
  · simp only [hsecond, decide_false]
    rfl

/-- R32, R86: in a well-formed geometry the address of a cell is the sum, at most 0x7F. -/
theorem cellAddress_toNat {a : Adapter} {g : Geometry} {col row : Byte} (hg : geometryWellFormed a g = true)
    (hrow : row.toNat < g.rows.toNat) (hcol : col.toNat < g.cols.toNat) :
    (cellAddress a g col row).toNat = col.toNat + (rowOffset g (rowMap a row).2).toNat ∧
      (cellAddress a g col row).toNat ≤ 0x7F := by
  obtain ⟨-, -, -, haddressable⟩ := (geometryWellFormed_iff a g).mp hg
  have hlast := haddressable row hrow
  have hsum : (cellAddress a g col row).toNat = col.toNat + (rowOffset g (rowMap a row).2).toNat := by
    rw [cellAddress, BitVec.toNat_add, Nat.mod_eq_of_lt (by omega)]
  exact ⟨hsum, by omega⟩

section InRange

variable {s : State} {col row : Byte} (hrow : row.toNat < s.cfg.geometry.rows.toNat)
  (hcol : col.toNat < s.cfg.geometry.cols.toNat)
include hrow hcol

theorem setCursor_acked (hacks : Acks s 4) : setCursor col row s =
    (.ok (), commandSent (0x80 ||| cellAddress s.cfg.adapter s.cfg.geometry col row) 39
      (controllerByte (rowMap s.cfg.adapter row).1) { s with active := (rowMap s.cfg.adapter row).1 }) := by
  have hc : (controllerByte (rowMap s.cfg.adapter row).1).toNat < count s := by
    rw [(controllerByte_eq_iff _ _).mp rfl]
    exact rowMap_fst_lt s.cfg.adapter row
  rw [setCursor_in_range hrow hcol]
  exact seqOps_cons_ok (command_eq_commandSent (s := { s with active := (rowMap s.cfg.adapter row).1 }) hc hacks _ _)

/-- R188: the command, whatever the bus answers to it, keeps the new `ACTIVE`. -/
theorem setCursor_active : (setCursor col row s).2.active = (rowMap s.cfg.adapter row).1 := by
  have h := registerView_fsmActiveView.portKept
  rw [setCursor_in_range hrow hcol]
  exact congrArg Prod.snd (h.seqOps (by simp [h.command _ _ settleDelay_tCmd]) _)

end InRange

/-- Settles O34: past its checks `set_cursor` writes `ACTIVE` and sends one command; the address does not overflow. -/
theorem setCursorAddressesTheRowsController : Obligations.SetCursorAddressesTheRowsController := by
  intro s col row hs hg hrow hcol
  have hexec : exec (.setCursor col row) s = complete okValue (setCursor col row) s := whenReady_ready hs _
  have hactive : (rowMap s.cfg.adapter row).1 =
      if decide (s.cfg.adapter = .dualPcf8574t ∧ 2 ≤ row.toNat) then 1 else 0 := by
    rw [rowMap_eq]
    split <;> rfl
  have hbyte : controllerByte (rowMap s.cfg.adapter row).1 =
      if decide (s.cfg.adapter = .dualPcf8574t ∧ 2 ≤ row.toNat) then 1 else 0 := by
    rw [hactive]
    split <;> rfl
  rw [hexec]
  refine ⟨fun hacks => ?_, _, rfl, (setCursor_active hrow hcol).trans hactive⟩
  obtain ⟨hsum, hmax⟩ := cellAddress_toNat hg hrow hcol
  rw [rowOffset_eq, rowMap_snd_toNat] at hsum
  refine ⟨_, hsum, hmax, ?_⟩
  rw [complete_ok (setCursor_acked hrow hcol hacks), hbyte, hactive]

/-! ### A mode byte before its command (R189) -/

/-- R189: the mode write is the only change of the controller registers; the command that follows changes none, whatever
the bus answers. -/
theorem sameRegisters_of_modeWrite (c b : Byte) (f : ModeBytes → ModeBytes) (s : State) :
    SameView controllerRegisters (setMode c f s) (seqOps [update (setMode c f), command c b tCmd] s).2 := by
  have h := registerView_controllerRegisters.portKept
  exact h.seqOps (l := [command c b tCmd]) (by simp [h.command c b settleDelay_tCmd]) _

theorem setMode_congr {c : Byte} {s : State} {f g : ModeBytes → ModeBytes} (h : f (modeAt c s) = g (modeAt c s)) :
    setMode c f s = setMode c g s := by
  unfold modeAt at h
  unfold setMode
  split_ifs with hc h0
  · rw [if_pos h0] at h
    rw [h]
  · rw [if_neg h0] at h
    rw [h]
  · rfl

section Held

variable {c : Byte} {s : State} (hheld : ModeHeld (modeAt c s)) (f : Byte → Byte)
include hheld

theorem changeControl_registers :
    SameView controllerRegisters (setMode c (mapControl f) s) (changeControl f c s).2 := by
  obtain ⟨-, hcontrol, -⟩ := hheld
  obtain ⟨v, hv⟩ := Option.isSome_iff_exists.mp hcontrol
  have hwrite : setMode c (mapControl f) s =
      setMode c (fun m => { m with control := some (f (modeByte (modeAt c s).control s)) }) s := by
    refine setMode_congr ?_
    rw [mapControl, hv]
    rfl
  rw [hwrite]
  exact sameRegisters_of_modeWrite c _ _ s

theorem changeEntry_registers :
    SameView controllerRegisters (setMode c (mapEntry f) s) (changeEntry f c s).2 := by
  obtain ⟨-, -, hentry⟩ := hheld
  obtain ⟨v, hv⟩ := Option.isSome_iff_exists.mp hentry
  have hwrite : setMode c (mapEntry f) s =
      setMode c (fun m => { m with entry := some (f (modeByte (modeAt c s).entry s)) }) s := by
    refine setMode_congr ?_
    rw [mapEntry, hv]
    rfl
  rw [hwrite]
  exact sameRegisters_of_modeWrite c _ _ s

end Held

theorem seqOps_singleton_snd (op : Op Unit) (s : State) : (seqOps [op] s).2 = (op s).2 := by
  rcases h : op s with ⟨e | ⟨⟩, t⟩
  · rw [seqOps_cons_error h]
  · rw [seqOps_cons_ok h, seqOps_nil]

theorem modeHeld_of_modesHeld {s : State} (h : ModesHeld s) {c : Byte} (hc : c.toNat < count s) :
    ModeHeld (modeAt c s) := by
  obtain ⟨h0, h1⟩ := h
  by_cases hc0 : c = 0
  · rwa [hc0]
  · rw [modeAt_of_ne hc0]
    exact h1 (controllerCountOf_eq_two hc hc0)

theorem zero_lt_controllerCountOf (a : Adapter) : (0 : Byte).toNat < controllerCountOf a := by
  cases a <;> decide

/-- R185, R189: where each body writes the mode bytes of its controller and leaves the other controller registers,
controller 0's are written in any case, and controller 1's once the first body has succeeded. -/
theorem fanOut_writes_modes {body : Byte → Op Unit} {u : Byte → ModeBytes → ModeBytes} {s : State}
    (hexact : ∀ c, Exact (body c)) (hacked : Acks s 4 → (body 0 s).1 = .ok ())
    (hbody : ∀ (c : Byte) (t : State), c.toNat < count s → t.active = s.active → modeAt c t = modeAt c s →
      SameView controllerRegisters (setMode c (u c) t) (body c t).2) :
    (fanOut body s).2.mode0 = u 0 s.mode0 ∧
      (s.cfg.adapter = .dualPcf8574t → Acks s 4 → (fanOut body s).2.mode1 = u 1 s.mode1) := by
  have hfirst := hbody 0 s (zero_lt_controllerCountOf _) rfl rfl
  rw [setMode_zero] at hfirst
  simp only [SameView, controllerRegisters, Prod.mk.injEq] at hfirst
  obtain ⟨-, hmode0, hmode1, hactive⟩ := hfirst
  unfold fanOut
  cases ha : s.cfg.adapter with
  | genericPcf8574t | adafruitMcp23008 =>
    refine ⟨?_, nofun⟩
    rw [show (controllersOf _).map body = [body 0] from rfl, seqOps_singleton_snd]
    exact hmode0
  | dualPcf8574t =>
    rw [show (controllersOf _).map body = [body 0, body 1] from rfl]
    rcases hrun : body 0 s with ⟨e | ⟨⟩, t⟩ <;> rw [hrun] at hmode0 hmode1 hactive hacked
    · rw [seqOps_cons_error hrun]
      exact ⟨hmode0, fun _ hacks => absurd (hacked hacks) nofun⟩
    · have hcount : (1 : Byte).toNat < count t := by rw [count, (hexact 0).cfg hrun, ha]; decide
      have hsecond := hbody 1 t (by rw [count, ha]; decide) hactive hmode1
      rw [setMode_of_ne hcount (by decide)] at hsecond
      simp only [SameView, controllerRegisters, Prod.mk.injEq] at hsecond
      obtain ⟨-, hkept0, hwritten1, -⟩ := hsecond
      rw [seqOps_cons_ok hrun, seqOps_singleton_snd]
      exact ⟨hkept0.trans hmode0, fun _ _ => by rw [hwritten1, ← hmode1]⟩

theorem AckedBy.result {a : Adapter} {op : Op Unit} {f : State → State} {n : Nat} (h : AckedBy a op f n) {s : State}
    (hs : s.cfg.adapter = a) (hacks : Acks s n) : (op s).1 = .ok () := by
  obtain ⟨-, hrun⟩ := h
  rw [hrun s hs hacks]

section WritesModeFirst

variable {s : State} (hs : s.fsm = .ready) (hheld : ModesHeld s) {i : Instr}
include hs hheld

theorem writesModeFirst_of_fanOut {body : Byte → Op Unit} {u : Byte → ModeBytes → ModeBytes} {g : State → State}
    (hexec : exec i s = whenReady s (complete okValue (fanOut body) s)) (hexact : ∀ c, Exact (body c))
    (hacked : AckedBy s.cfg.adapter (body 0) g 4)
    (hbody : ∀ (c : Byte) (t : State), t.active = s.active → ModeHeld (modeAt c t) →
      SameView controllerRegisters (setMode c (u c) t) (body c t).2) : WritesModeFirst s i u := by
  obtain ⟨hmode0, hmode1⟩ := fanOut_writes_modes hexact (hacked.result rfl) fun c t hc hactive hmode =>
    hbody c t hactive (by rw [hmode]; exact modeHeld_of_modesHeld hheld hc)
  exact ⟨_, hexec.trans (whenReady_ready hs _), hmode0, hmode1⟩

variable {f v : Byte → Byte} (hfv : ∀ x, f x = v x)
include hfv

theorem writesModeFirst_of_changeControl
    (hexec : exec i s = whenReady s (complete okValue (fanOut (changeControl f)) s)) :
    WritesModeFirst s i fun _ => mapControl v := by
  obtain rfl : f = v := funext hfv
  exact writesModeFirst_of_fanOut hs hheld hexec (exact_changeControl f)
    (ackedBy_changeControl (zero_lt_controllerCountOf _) f) fun _ _ _ hc => changeControl_registers hc f

theorem writesModeFirst_of_changeEntry
    (hexec : exec i s = whenReady s (complete okValue (fanOut (changeEntry f)) s)) :
    WritesModeFirst s i fun _ => mapEntry v := by
  obtain rfl : f = v := funext hfv
  exact writesModeFirst_of_fanOut hs hheld hexec (exact_changeEntry f)
    (ackedBy_changeEntry (zero_lt_controllerCountOf _) f) fun _ _ _ hc => changeEntry_registers hc f

/-- R191, R192: the change of the control byte depends on `ACTIVE`, which the first body keeps. -/
theorem writesModeFirst_of_changeCursor
    (hexec : exec i s = whenReady s (complete okValue (fanOut (changeCursor f)) s)) :
    WritesModeFirst s i fun c => mapControl (if c.toNat = s.active.toNat then v else (· &&& 0xFC)) := by
  obtain rfl : f = v := funext hfv
  refine writesModeFirst_of_fanOut hs hheld hexec (exact_changeCursor f)
    (ackedBy_changeCursor (zero_lt_controllerCountOf _) f) fun c t hactive hc => ?_
  rw [changeCursor_eq, hactive, ← funext withoutCursor_eq]
  simp only [← controllerByte_eq_iff]
  exact changeControl_registers hc _

end WritesModeFirst

/-- Settles O39: six fan-outs whose bodies write a mode byte and then send a command. -/
theorem modeIsWrittenBeforeTheCommand : Obligations.ModeIsWrittenBeforeTheCommand := by
  intro s on hs hheld
  exact ⟨writesModeFirst_of_changeControl hs hheld (withDisplay_eq on) rfl,
    writesModeFirst_of_changeCursor hs hheld (withCursor_eq on) rfl,
    writesModeFirst_of_changeCursor hs hheld (withBlink_eq on) rfl,
    writesModeFirst_of_changeEntry hs hheld (fun _ => rfl) rfl,
    writesModeFirst_of_changeEntry hs hheld withRightToLeft_eq rfl,
    writesModeFirst_of_changeEntry hs hheld (withAutoscroll_eq on) rfl⟩

end Sys2Proof.Machine
end

section
/-! PROOFS of the exception statements (spec 60_exceptions.md): the first failed transaction ends an operation (R232),
the checks of `set_cursor` (R233), the host reads of an adapter without reads (R235) and the one fault (R240). -/

namespace Sys2Proof.Machine

open Sys2Proof.Claims

variable {α : Type}

/-! ### The first failed transaction ends the operation (R232) -/

/-- How a step from s to t with n transactions and the events evs ends: all of them succeeded and no `BusError` was
returned, or the last one failed, its event is the last, and its error is the result. -/
def StopsAtFailure (s t : State) (n : Nat) (evs : List Event) : Prop :=
  (Acks s n ∧ ∀ e, t.results ≠ s.results ++ [.error (.busError e)]) ∨
  (∃ e pre ev, 0 < n ∧ answerAt s (n - 1) = .err e ∧ Acks s (n - 1) ∧ t.job = none ∧
    t.results = s.results ++ [.error (.busError e)] ∧ evs = pre ++ [ev] ∧ isTransaction ev = true)

/-- R232 of a whole step: its transactions use up the bus's answers, are all recorded, and end at a failure. -/
def EndsAtFirstFailure (s t : State) : Prop :=
  ∃ n evs, t.txn = s.txn + n ∧ t.busScript = s.busScript.drop n ∧ t.trace = s.trace ++ evs ∧
    evs.countP isTransaction = n ∧ StopsAtFailure s t n evs

theorem resultOf_eq_error_iff {f : α → Value} {r : Except OpError α} {e : OpError} :
    resultOf f r = .error e ↔ r = .error e := by
  cases r <;> simp [resultOf]

theorem isTransaction_of_ne_delay {ev : Event} (h : ∀ t, ev ≠ .delay t) : isTransaction ev = true := by
  cases ev with
  | busWrite _ _ | busRead _ => rfl
  | delay t => exact absurd rfl (h t)

/-- An operation whose result has been given to the host, with nothing left in progress. -/
theorem Ended.stopsAtFailure {s t : State} {n : Nat} {evs : List Event} {f : α → Value} {r : Except OpError α}
    (h : Ended s n evs r) (hresults : t.results = s.results ++ [resultOf f r]) (hjob : t.job = none) :
    StopsAtFailure s t n evs := by
  obtain ⟨hacks, hr⟩ | ⟨e, pre, ev, hpos, hfailed, hacks, rfl, hevs, hev⟩ := h
  · refine .inl ⟨hacks, fun e he => hr e ?_⟩
    have hresult : resultOf f r = .error (.busError e) := by simpa [hresults] using he
    exact resultOf_eq_error_iff.mp hresult
  · exact .inr ⟨e, pre, ev, hpos, hfailed, hacks, hjob, hresults, hevs, isTransaction_of_ne_delay hev⟩

/-- Acknowledged transactions, and no result. -/
theorem stopsAtFailure_of_acks {s t : State} {n : Nat} (hacks : Acks s n) (hresults : t.results = s.results)
    (evs : List Event) : StopsAtFailure s t n evs :=
  .inl ⟨hacks, by simp [hresults]⟩

/-- Neither the bus nor the host's results are touched: the idle step, and the fault of R240. -/
theorem endsAtFirstFailure_of_silent {s t : State} (htxn : t.txn = s.txn) (hscript : t.busScript = s.busScript)
    (htrace : t.trace = s.trace) (hresults : t.results = s.results) : EndsAtFirstFailure s t :=
  ⟨0, [], htxn, hscript, by simp [htrace], rfl, stopsAtFailure_of_acks (acks_zero s) hresults []⟩

theorem jobStep_endsAtFirstFailure (j : ReadJob) (s : State) : EndsAtFirstFailure s (jobStep j s) := by
  obtain ⟨n, evs, htxn, hscript, htrace, hcount, -, -, -, hend⟩ := jobStep_exact j s
  refine ⟨n, evs, htxn, hscript, htrace, hcount, ?_⟩
  obtain ⟨r, hresults, hjob, hended⟩ | ⟨hresults, -, hacks⟩ := hend
  · exact hended.stopsAtFailure hresults hjob
  · exact stopsAtFailure_of_acks hacks hresults evs

theorem exec_endsAtFirstFailure {i : Instr} {s t : State} (hjob : s.job = none) (h : exec i s = .next t) :
    EndsAtFirstFailure s t := by
  cases exec_cases i s with
  | complete f op exact eq =>
    obtain ⟨n, evs, issued, hended⟩ := exact s
    obtain rfl : runOp f op s = t := by simpa [eq, complete] using h
    exact ⟨n, evs, issued.txn, issued.busScript, issued.trace, issued.count,
      hended.stopsAtFailure (congrArg (· ++ _) issued.results) (issued.job.trans hjob)⟩
  | reading k rs c n reads eq =>
    obtain rfl : jobStep ⟨k, rs, c, n, []⟩ s = t := by simpa [eq] using h
    exact jobStep_endsAtFirstFailure _ s
  | faulted reads eq =>
    obtain rfl : { s with fault := some .unsupportedRead } = t := by simpa [eq] using h
    exact endsAtFirstFailure_of_silent rfl rfl rfl rfl
  | refused r eq => simp [eq] at h

/-- Settles O58: an idle step makes no transaction, and an iteration of a read and an instruction end at their first
failure. -/
theorem anOperationEndsAtTheFirstFailedTransaction : Obligations.AnOperationEndsAtTheFirstFailedTransaction := by
  intro s t hstep
  show EndsAtFirstFailure s t
  obtain ⟨-, ⟨-, -, rfl⟩ | ⟨j, -, rfl⟩ | ⟨_, rest, _, hjob, -, -, hexec⟩⟩ := step_cases hstep
  · exact endsAtFirstFailure_of_silent rfl rfl rfl rfl
  · exact jobStep_endsAtFirstFailure j s
  · exact exec_endsAtFirstFailure (s := { s with requests := rest }) hjob hexec

/-! ### Host operations that fail before any effect (R233, R235) -/

/-- What a failed operation of a gated instruction leaves (R36, R171). -/
theorem whenReady_complete_error {f : α → Value} {op : Op α} {e : OpError} {s t : State} (hs : s.fsm = .ready)
    (h : op s = (.error e, t)) : whenReady s (complete f op s) = .next (failed e t) :=
  (whenReady_ready hs _).trans (complete_error h)

theorem setCursor_row_out {s : State} {row : Byte} (hrow : s.cfg.geometry.rows.toNat ≤ row.toNat) (col : Byte) :
    setCursor col row s = (.error (.rowOutOfRange row), s) :=
  if_pos (decide_eq_true hrow)

theorem setCursor_col_out {s : State} {col row : Byte} (hrow : row.toNat < s.cfg.geometry.rows.toNat)
    (hcol : s.cfg.geometry.cols.toNat ≤ col.toNat) : setCursor col row s = (.error (.columnOutOfRange col), s) := by
  have hpassed : ¬ s.cfg.geometry.rows.ule row = true := by simpa [BitVec.ule] using hrow
  exact (if_neg hpassed).trans (if_pos (decide_eq_true hcol))

/-- Settles O33: the two checks, in their order, each before any effect. -/
theorem setCursorChecksRowThenColumn : Obligations.SetCursorChecksRowThenColumn := fun _ col _ hs =>
  ⟨fun hrow => whenReady_complete_error hs (setCursor_row_out hrow col),
    fun hrow hcol => whenReady_complete_error hs (setCursor_col_out hrow hcol)⟩

/-- R7: GENERIC_PCF8574T is the one adapter with reads. -/
theorem supportsReadsOf_eq_false {a : Adapter} (ha : a ≠ .genericPcf8574t) : supportsReadsOf a = false := by
  rw [supportsReadsOf_eq, decide_eq_false ha]

/-- R200, R201, R235: the capability check of a host read comes before the read. -/
theorem hostRead_fails {s : State} (hs : s.fsm = .ready) (ha : s.cfg.adapter ≠ .genericPcf8574t) (k : Outcome) :
    whenReady s (if supportsReadsOf s.cfg.adapter then k else complete okValue (raise .readNotSupported) s) =
      .next (failed .readNotSupported s) := by
  rw [supportsReadsOf_eq_false ha]
  exact whenReady_complete_error hs rfl

/-- Settles O43: both host reads fail at the one capability check. -/
theorem hostReadsReportReadNotSupported : Obligations.HostReadsReportReadNotSupported := fun _ _ hs ha =>
  ⟨hostRead_fails hs ha _, hostRead_fails hs ha _⟩

/-! ### The one fault (R145, R240) -/

/-- The three requests that R240 names. -/
def IsEngineRead (i : Instr) : Prop := ∃ rs n c, i ∈ [Instr.readByte rs c, Instr.busyPoll c, Instr.readBytes rs n c]

/-- An operation that runs to its end enters no fault, whatever the bus answers. -/
theorem Exact.keepsFault {op : Op α} (h : Exact op) {f : α → Value} {s : State} :
    NextKept (SameView State.fault) s (complete f op s) := by
  rintro t ⟨⟩
  obtain ⟨_, _, issued, -⟩ := h s
  exact issued.fault

theorem jobStep_keepsFault (j : ReadJob) (s : State) : NextKept (SameView State.fault) s (.next (jobStep j s)) := by
  rintro t ⟨⟩
  exact (jobStep_result j s).1

theorem startRead_keepsFault (k : ReadKind) (rs : Bool) (n : Nat) (c : Byte) (s : State) :
    NextKept (SameView State.fault) s (startRead k rs n c s) := by
  unfold startRead
  split
  · exact Exact.keepsFault (exact_of_eq fun _ => ⟨_, exact_opReturn _, rfl⟩)
  · exact jobStep_keepsFault _ s

/-- R200, R201: a host read fails with an error where an engine read would fault. -/
theorem hostRead_keepsFault (k : ReadKind) (rs : Bool) (n : Nat) (c : Byte) (s : State) :
    NextKept (SameView State.fault) s (if supportsReadsOf s.cfg.adapter then startRead k rs n c s
      else complete okValue (raise .readNotSupported) s) := by
  split
  · exact startRead_keepsFault k rs n c s
  · exact (exact_raise (by simp)).keepsFault

/-- A request of a port that is no engine read enters no fault: its operation runs to its end, or starts a host read. -/
theorem exec_port_keepsFault {i : Instr} (hport : (encode i).channel = .request) (hread : ¬ IsEngineRead i)
    (s : State) : NextKept (SameView State.fault) s (exec i s) := by
  cases i
  case init => exact exact_initSequence.keepsFault
  case clear | scrollLeft | scrollRight => exact .whenReady (exact_fanOut fun _ => exact_command _ _ _).keepsFault
  case home =>
    exact .whenReady (exact_seqOps (by simp [exact_fanOut, exact_command, exact_setActive])).keepsFault
  case setCursor => exact .whenReady (exact_setCursor _ _).keepsFault
  case showCursor | blinkCursor => exact .whenReady (exact_fanOut (exact_changeCursor _)).keepsFault
  case showDisplay => exact .whenReady (exact_fanOut (exact_changeControl _)).keepsFault
  case leftToRight | rightToLeft | autoscroll => exact .whenReady (exact_fanOut (exact_changeEntry _)).keepsFault
  case createChar loc g =>
    show NextKept _ s (execCreateChar loc g s)
    unfold execCreateChar
    split
    · exact .whenReady (exact_fanOut (exact_defineGlyph loc g)).keepsFault
    · exact .refused _
  case print => exact .whenReady (exact_printText _).keepsFault
  case backlight =>
    exact .whenReady (exact_seqOps (by simp [exact_setBacklight, exact_writeStateToBus])).keepsFault
  case readDeviceData | readAddressCounter => exact .whenReady (hostRead_keepsFault _ _ _ _ s)
  case supportsReads | defaultBusAddress | adapterSupportsReads | controllerCount | isCompatible | encode =>
    exact (exact_of_eq fun _ => ⟨_, exact_opReturn _, rfl⟩).keepsFault
  case hardwareInit => exact exact_hardwareInit.keepsFault
  case setRs => exact (exact_setRs _).keepsFault
  case setRw => exact (exact_setRw _).keepsFault
  case setBacklight => exact (exact_setBacklight _).keepsFault
  case setEnable => exact (exact_setEnable _ _).keepsFault
  case setData => exact (exact_setData _).keepsFault
  case writeStateToBus => exact exact_writeStateToBus.keepsFault
  case writeNibble => exact (exact_writeNibble _ _ _).keepsFault
  case writeByte => exact (exact_writeByte _ _ _).keepsFault
  case readByte rs c => exact absurd ⟨rs, 0, c, by simp⟩ hread
  case busyPoll c => exact absurd ⟨false, 0, c, by simp⟩ hread
  case readBytes rs n c => exact absurd ⟨rs, n, c, by simp⟩ hread
  all_goals cases hport

/-- R145: on an adapter with reads no instruction enters a fault. -/
theorem exec_keepsFault_of_reads {s : State} (hs : supportsReadsOf s.cfg.adapter = true) (i : Instr) :
    NextKept (SameView State.fault) s (exec i s) := by
  cases exec_cases i s with
  | complete f op exact eq => exact eq ▸ exact.keepsFault
  | reading k rs c n reads eq => exact eq ▸ jobStep_keepsFault _ s
  | faulted reads eq => exact absurd (hs.symm.trans reads) nofun
  | refused r eq => exact eq ▸ .refused r

/-- Settles O24: the three reads go through the one capability check; every other request, every request on an adapter
with reads, and every iteration of a read keep the fault field. -/
theorem unsupportedReadFaultsAndStops : Obligations.UnsupportedReadFaultsAndStops := by
  refine ⟨fun s rs n c ha i hi => ⟨?_, step_fault rfl⟩, fun i s t hexec hfault ht hport => ⟨fun ha => ?_, ?_⟩,
    fun s t hreading hstep => ?_⟩
  · simp only [List.mem_cons, List.not_mem_nil, or_false] at hi
    rcases hi with rfl | rfl | rfl <;> exact whenReadable_faults ha _
  · have hkept := exec_keepsFault_of_reads (by rw [ha]; rfl) i t hexec
    exact ht (hkept.trans hfault)
  · by_contra hread
    have hkept := exec_port_keepsFault hport hread s t hexec
    exact ht (hkept.trans hfault)
  · obtain ⟨hfault, ⟨hnone, -, -⟩ | ⟨j, -, rfl⟩ | ⟨_, _, _, hnone, -⟩⟩ := step_cases hstep
    · simp [hnone] at hreading
    · exact (jobStep_result j s).1.trans hfault
    · simp [hnone] at hreading

end Sys2Proof.Machine
end

section
/-! PROOF of the trace of `init` (spec 70_reset_and_hazards.md R264, 95_test_vectors.md V-L1-4): the events of each step
of R172, and their values on the documented display. -/

namespace Sys2Proof.Machine

open Sys2Proof.Claims

/-! ### The events of an initialization (R172) -/

/-- The two frames of a nibble write with RS = 0 (R141). -/
def nibbleFrames (cfg : Configuration) (g : SignalState) (c : Byte) (nib : Nibble) : List Event :=
  [true, false].map fun en => .busWrite cfg.busAddr (encodeFrame cfg.adapter (strobe cfg.adapter false nib c en g))

/-- The four frames of a command byte and its settle delay (R144). -/
def commandEvents (cfg : Configuration) (g : SignalState) (c b : Byte) (t : Nat) : List Event :=
  nibbleFrames cfg g c (highNibble b) ++ nibbleFrames cfg g c (lowNibble b) ++ [.delay t]

/-- R172 steps 3a to 3f for controller c, from the signals g at their start. -/
def controllerInitEvents (cfg : Configuration) (g : SignalState) (c : Byte) : List Event :=
  nibbleFrames cfg g c 0x3 ++ [.delay 5000] ++ nibbleFrames cfg g c 0x3 ++ [.delay 5000] ++
  nibbleFrames cfg g c 0x3 ++ [.delay 150] ++ nibbleFrames cfg g c 0x2 ++ [.delay 39] ++
  commandEvents cfg g c 0x28 39 ++ commandEvents cfg g c 0x0C 39 ++ commandEvents cfg g c 0x06 39 ++
  commandEvents cfg g c 0x01 2000 ++ commandEvents cfg g c 0x02 2000

section

variable (cfg : Configuration) (g : SignalState) (rs v : Bool) (nib : Nibble) (c b : Byte) (t : Nat) (s : State)

/-- A nibble write stages its own signals, so its frames do not depend on an earlier transfer to the controller. -/
@[simp] theorem nibbleFrames_strobe (nib' : Nibble) :
    nibbleFrames cfg (strobe cfg.adapter rs nib' c v g) c nib = nibbleFrames cfg g c nib := by
  simp only [nibbleFrames, strobe_strobe]

@[simp] theorem commandEvents_strobe :
    commandEvents cfg (strobe cfg.adapter rs nib c v g) c b t = commandEvents cfg g c b t := by
  simp only [commandEvents, nibbleFrames_strobe]

@[simp] theorem delayed_trace : (delayed t s).trace = s.trace ++ [.delay t] := rfl

@[simp] theorem nibbleSent_trace : (nibbleSent false nib c s).trace = s.trace ++ nibbleFrames s.cfg s.sig c nib := rfl

@[simp] theorem commandSent_trace : (commandSent b t c s).trace = s.trace ++ commandEvents s.cfg s.sig c b t :=
  List.append_assoc s.trace _ [.delay t]

@[simp] theorem changeMode_trace (f : ModeBytes → ModeBytes) : (changeMode c f s).trace = s.trace := by
  unfold changeMode
  split_ifs <;> rfl

theorem controllerInitialized_trace :
    (controllerInitialized c s).trace = s.trace ++ controllerInitEvents s.cfg s.sig c := by
  simp [controllerInitialized, entrySent, controlSent, functionSent, controllerInitEvents]

end

/-- On a PCF8574T: no power-up write, one controller, and the backlight frame from its last nibble's signals. -/
theorem initialized_trace_generic {s : State} (h : s.cfg.adapter = .genericPcf8574t) :
    (initialized s).trace = s.trace ++ (controllerInitEvents s.cfg s.sig 0 ++
      [frame s { strobe s.cfg.adapter false 0x2 0 false s.sig with bl := true }]) := by
  have hinitialized : (initialized s).trace = (controllerInitialized 0 { s with fsm := .uninit }).trace ++
      [frame s { (controllerInitialized 0 { s with fsm := .uninit }).sig with bl := true }] := by
    simp [initialized, backlightSent, sent, eachController, poweredUp, frame, controllerInitialized_cfg, h]
  rw [hinitialized, controllerInitialized_trace, controllerInitialized_sig, List.append_assoc]

/-- Settles O28: the trace of R172 on a PCF8574T, evaluated at the documented address, geometry and signals. -/
theorem initTraceOfASixteenByTwoDisplay : Obligations.InitTraceOfASixteenByTwoDisplay := by
  intro s hcfg hsig hacks
  have hcompatible : isCompatibleWith s.cfg.adapter s.cfg.geometry = true := by rw [hcfg]; rfl
  have htransactions : initTransactions s = 29 := by rw [initTransactions, count, hcfg]; rfl
  refine ⟨_, initRunsTheWholeSequence s hcompatible (htransactions ▸ hacks), ?_⟩
  have htrace := initialized_trace_generic (s := s) (by rw [hcfg])
  rw [frame, hcfg, hsig] at htrace
  -- The events are now closed terms: each frame evaluates to the byte that V-L1-4 lists.
  exact htrace

end Sys2Proof.Machine
end
